-- ==== Sys2Proof/Word.lean ====
section
/-! DEFINITION. The words of the block: bytes and 16-bit values, all unsigned (00_scope.md R8). -/

namespace Sys2Proof

/-- A byte, bit 7 most significant (R8). -/
abbrev Byte := BitVec 8

/-- A 16-bit unsigned value: the CRC register, a model identifier (R8, R66). -/
abbrev Word := BitVec 16

end Sys2Proof
end

