-- ==== Sys2Proof/Syntax.lean ====
section
/-! DEFINITION. The operations of the block, one constructor of Instr per row of spec/opcode_table.json,
with their operands, and the inputs the environment offers. -/

namespace Sys2Proof

/-- An observer's identifier (43_mux.md R226). The spec gives identifiers no form: DESIGN CHOICE, log 14. -/
abbrev ObserverId := Nat

/-- A ModelDescriptor (30_encoding.md R104): the 10-byte `config` is empty when absent. -/
structure ModelDesc where
  modelId : Word
  config  : List Byte
deriving DecidableEq, Repr

/-- The fields of a decoded message, by payload shape (R100 to R104, R108; field names of D26). -/
inductive Fields where
  | empty                                        -- ZERO
  | blob   (data : List Byte)                    -- BLOB
  | list16 (ids : List Word)                     -- LIST16
  | mdlist (descs : List ModelDesc)              -- MDLIST
  | fixed  (bytes : List Byte)                   -- FIXED(n)
  | nested (fixedPart blob : List Byte)          -- NESTED(f, o, w)
deriving DecidableEq, Repr

/-- A decoded message: opcode, variant name and fields, nothing else (43_mux.md R206). -/
structure Message where
  op     : Byte
  name   : String
  fields : Fields
deriving DecidableEq, Repr

/-- The block's operations: the six FRAME rows (a frame on the wire, LENGTH being the number of payload
bytes, R91) and the 23 EVENT rows (R118) of spec/opcode_table.json. -/
inductive Instr where
  | pingReq       (payload : List Byte) (crcl crch : Byte)              -- PING_REQ
  | deviceInitEvt (payload : List Byte) (crcl crch : Byte)              -- DEVICE_INIT_EVT
  | zeroArgReq09  (payload : List Byte) (crcl crch : Byte)              -- ZERO_ARG_REQ_09
  | generic       (payload : List Byte) (crcl crch : Byte)              -- GENERIC
  | unassigned    (op : Byte) (payload : List Byte) (crcl crch : Byte)  -- UNASSIGNED
  | tableRow      (op : Byte) (payload : List Byte) (crcl crch : Byte)  -- TABLE_ROW
  | reset                                        -- RESET
  | crcInit                                      -- CRC_INIT
  | crcByte (r : Word) (b : Byte)                -- CRC_BYTE
  | crc16 (bytes : List Byte)                    -- CRC16
  | rxHunt (b : Byte)                            -- RX_BYTE.HUNT
  | rxHunt55 (b : Byte)                          -- RX_BYTE.HUNT55
  | rxLen (b : Byte)                             -- RX_BYTE.LEN
  | rxOpc (b : Byte)                             -- RX_BYTE.OPC
  | rxPay (b : Byte)                             -- RX_BYTE.PAY
  | rxCrclo (b : Byte)                           -- RX_BYTE.CRCLO
  | rxCrchi (b : Byte)                           -- RX_BYTE.CRCHI
  | rxByte (b : Byte)                            -- RX_BYTE
  | rxChunk (bytes : List Byte)                  -- RX_CHUNK
  | extractFrames (buf : List Byte)              -- EXTRACT_FRAMES
  | validate (cand : List Byte)                  -- VALIDATE
  | dispatch (pf : List Byte)                    -- DISPATCH
  | deserialize (buf : List Byte)                -- DESERIALIZE
  | decodeAs (x : Byte) (buf : List Byte)        -- DECODE_AS
  | registerObserver (o : ObserverId)            -- REGISTER_OBSERVER
  | unregisterObserver (o : ObserverId)          -- UNREGISTER_OBSERVER
  | serialize (op : Byte) (fields : Fields)      -- SERIALIZE
  | wrap (pf : List Byte)                        -- WRAP
  | send (op : Byte) (fields : Fields)           -- SEND
deriving DecidableEq, Repr

/-- The EVENT rows whose operand is a string of bytes (opcode_table.json, column encoding). -/
inductive EventOp where
  | reset | crcInit | crcByte | crc16
  | rxHunt | rxHunt55 | rxLen | rxOpc | rxPay | rxCrclo | rxCrchi
  | rxChunk | extractFrames | validate | dispatch | deserialize | decodeAs | wrap
deriving DecidableEq, Repr

/-- The EVENT rows whose operand is an observer identifier. -/
inductive ObserverOp where
  | register | unregister
deriving DecidableEq, Repr

/-- The EVENT rows whose operand is a message (44_tx_framer.md R240: a pair of opcode and fields). -/
inductive MessageOp where
  | serialize | send
deriving DecidableEq, Repr

/-- What the environment offers the block (00_scope.md R13, R19): a chunk of received bytes, possibly
empty (R81), of which each byte is an RX_BYTE of its own; a FRAME row called as one operation; or an operation of
R118. EVENT rows have no bit encoding (R118), so an operation is its name with the operand written as the table's
encoding column shows it. DESIGN CHOICE, logs 1, 2. -/
inductive Input where
  | chunk    (bytes : List Byte)
  | frame    (bytes : List Byte)
  | event    (op : EventOp) (operand : List Byte)
  | observer (op : ObserverOp) (o : ObserverId)
  | message  (op : MessageOp) (code : Byte) (fields : Fields)
deriving DecidableEq, Repr

/-- Why an input is no instruction. -/
inductive DecodeError where
  /-- a chunk without a byte (R81); step removes it -/
  | emptyChunk
  /-- the bytes do not begin with 0xAA 0x55 (R93) -/
  | noPreamble
  /-- the bytes begin with 0xAA 0x55 but are fewer than 6 + LENGTH (R93) -/
  | incomplete
  /-- an event's operand bytes have not the form the table's encoding column shows -/
  | operandForm
deriving DecidableEq, Repr

end Sys2Proof
end

