-- ==== Sys2Proof/Machine/State.lean ====
section
/-! DEFINITION. The state of the block (10_state.md R20), its outputs (R37), the results of direct calls, and the
ways the model stops. -/

namespace Sys2Proof.Machine

/-- The phase (R22). The eighth value of the three bits is unrepresentable, as R22 asks. -/
inductive Phase where
  | hunt | hunt55 | len | opc | pay | crclo | crchi
deriving DecidableEq, Repr

/-- The block's three errors (60_exceptions.md R260). -/
inductive Err where
  | crcMismatch | opcodeMismatch | lengthMismatch
deriving DecidableEq, Repr

/-- What CHECK and VALIDATE answer (42_validator.md R181). -/
inductive Verdict where
  | isMatch | isMismatch
deriving DecidableEq, Repr

/-- The output events (R37). `code` is the number of R261. -/
inductive OutEvent where
  | frame (pf : List Byte)
  | deliver (o : ObserverId) (m : Message)
  | logSkip (b : Byte)
  | logCrcDrop (cand : List Byte)
  | logDecodeDrop (code : Nat) (pf : List Byte)
deriving DecidableEq, Repr

/-- The result a direct call hands its caller (R118, column result; R265: an error is the call's result). -/
inductive Result where
  | crc (v : Word)
  | frames (fs : List (List Byte)) (leftover : List Byte)
  | verdict (v : Verdict)
  | message (m : Message)
  | bytes (bs : List Byte)
  | error (e : Err)
  /-- REGISTER_OBSERVER beyond the capacity (43_mux.md R226). Log 13. -/
  | refused
deriving DecidableEq, Repr

/-- Why the machine stops with a fault. No run from reset reaches one (R33). -/
inductive Fault where
  /-- Raised by a store to, or a read of, a frame buffer address above 256, which does not exist (20_memory.md
  R63). Safe: the model stops. -/
  | fbOutOfRange (a : Nat)
  /-- Raised by RX_BYTE in phase CRCHI when a byte below `fbn` has never been written (R25, U1; log 5). Safe:
  the model stops. -/
  | fbUnwritten
deriving DecidableEq, Repr

/-- Why an input has no meaning. -/
inductive Refusal where
  /-- Raised by exec for an instruction without a meaning yet. Safe. -/
  | notModelled (mnemonic : String)
  /-- Raised by step for an input that is no instruction (log 21). Safe. -/
  | undecodable (e : DecodeError)
  /-- Raised by the seven RX_BYTE.<phase> rows in a phase that does not select them (41_reassembler.md R158;
  log 9). Safe. -/
  | phaseNotSelected
  /-- Raised by WRAP of what is no well-formed MSG (93_implementation_defined.md U17; log 10). Safe. -/
  | notAMsg
  /-- Raised by SERIALIZE and SEND of fields that are no value of the variant (44_tx_framer.md R246, U16;
  log 11). Safe. -/
  | notAValue
deriving DecidableEq, Repr

/-- A byte-addressed memory: pairs of address and byte, addresses strictly rising. An unlisted address has no
value (log 5). -/
abbrev Memory := List Host.Cell

/-- The state. The first nine fields are R20's elements; the last four carry what crosses the block's boundary
(logs 1, 3). -/
structure State where
  /-- running CRC of the current candidate (R21) -/
  crc : Word
  /-- the phase (R22) -/
  ph : Phase
  /-- LENGTH of the current candidate (R23) -/
  len : Byte
  /-- payload bytes received so far (R24) -/
  cnt : Byte
  /-- the frame buffer, addresses 0 to 256 (R25) -/
  fb : Memory
  /-- the number of valid bytes in `fb`, 9 bits (R25) -/
  fbn : BitVec 9
  /-- the first trailer byte (R26) -/
  crcLo : Byte
  /-- the four sticky flags of STATUS (R27) -/
  status : BitVec 4
  /-- the registered observers, oldest first (R28) -/
  obs : List ObserverId
  /-- what the environment has offered and the block has not taken, oldest first (R13, R76) -/
  inbox : List Input
  /-- the events emitted, oldest first (R37) -/
  out : List OutEvent
  /-- the results of direct calls, oldest first (R265) -/
  returns : List Result
  /-- the outbound chunks handed to the transport, oldest first (R79, R242) -/
  tx : List (List Byte)
deriving DecidableEq, Repr

/-- The state after reset (R36, R300). `fb` is unspecified there: nothing is listed (log 5). The last four
fields are the model's own and start empty (logs 3, 17). -/
def State.reset : State where
  crc := 0xFFFF
  ph := .hunt
  len := 0
  cnt := 0
  fb := []
  fbn := 0
  crcLo := 0
  status := 0
  obs := []
  inbox := []
  out := []
  returns := []
  tx := []

end Sys2Proof.Machine
end

