-- ==== Sys2Proof/Machine/Flags.lean ====
section
/-! DEFINITION. STATUS: four sticky flags (10_state.md R27), and the code, flag and event of each error
(60_exceptions.md R261). -/

namespace Sys2Proof.Machine

/-- The bits of STATUS (R27). -/
def crcErrFlag : BitVec 4 := 1
def opcErrFlag : BitVec 4 := 2
def lenErrFlag : BitVec 4 := 4
def skipFlag : BitVec 4 := 8

/-- Set a flag; the others keep their values (R27). -/
def State.setFlag (f : BitVec 4) (s : State) : State := { s with status := s.status ||| f }

/-- The number of an error; 0 means none (R261). -/
def Err.code : Err → Nat
  | .crcMismatch => 1
  | .opcodeMismatch => 2
  | .lengthMismatch => 3

/-- The flag an error sets on the stream path (R260, R261). -/
def Err.flag : Err → BitVec 4
  | .crcMismatch => crcErrFlag
  | .opcodeMismatch => opcErrFlag
  | .lengthMismatch => lenErrFlag

/-- The event that records a dropped candidate (R184) or a dropped payload-frame (R203, R204). -/
def Err.event (dropped : List Byte) : Err → OutEvent
  | .crcMismatch => .logCrcDrop dropped
  | .opcodeMismatch => .logDecodeDrop (Err.code .opcodeMismatch) dropped
  | .lengthMismatch => .logDecodeDrop (Err.code .lengthMismatch) dropped

end Sys2Proof.Machine
end

