-- ==== Sys2Proof/Machine/Format.lean ====
section
/-! DEFINITION. The fixed parameters of 00_scope.md R6 and the two formats of 30_encoding.md R90: byte order,
slices, the layout of a MSG and of a FRAME. -/

namespace Sys2Proof.Machine

/-- PREAMBLE0 and PREAMBLE1 (R6): two byte constants, 0xAA first on the wire (R68). -/
def preamble0 : Byte := 0xAA
def preamble1 : Byte := 0x55

/-- MIN_FRAME: the bytes of a frame beside its payload (R6). -/
def minFrame : Nat := 6

/-- MAX_LENGTH: the largest LENGTH (R6). -/
def maxLength : Nat := 255

/-- MAX_PF: the size of the frame buffer (R6, R25). -/
def fbSize : Nat := 257

/-- OPCODE_GENERIC (R6). -/
def opcodeGeneric : Byte := 0xFF

/-- Bits 7 to 0 and bits 15 to 8 of a 16-bit value (R8). -/
def lowByte (v : Word) : Byte := v.extractLsb' 0 8
def highByte (v : Word) : Byte := v.extractLsb' 8 8

/-- `u16le`: the lower offset holds the less significant byte (R10, R66). -/
def u16le (lo hi : Byte) : Word := lo.setWidth 16 ||| (hi.setWidth 16 <<< 8)

/-- `s[a:b)` (R9); formed only inside the sequence. -/
def slice (s : List Byte) (a b : Nat) : List Byte := (s.drop a).take (b - a)

/-- The MSG of an opcode and a payload of at most 255 bytes (R96): LENGTH, OPCODE, PAYLOAD. -/
def msg (op : Byte) (payload : List Byte) : List Byte :=
  BitVec.ofNat 8 payload.length :: op :: payload

/-- The FRAME of an opcode, a payload and the two trailer bytes as they travel (R91). -/
def frame (op : Byte) (payload : List Byte) (crcl crch : Byte) : List Byte :=
  preamble0 :: preamble1 :: (msg op payload ++ [crcl, crch])

/-- A well-formed MSG: exactly 2 + LENGTH bytes (R96). -/
def isMsg : List Byte → Bool
  | l :: _ :: payload => payload.length == l.toNat
  | _ => false

end Sys2Proof.Machine
end

