-- ==== Sys2Proof/Machine/Ops.lean ====
section
/-! DEFINITION. The named operations over memory, events and results, and taking an error on the stream path
(60_exceptions.md R269). -/

namespace Sys2Proof.Machine

/-- The byte at an address; none where nothing was written. -/
def Memory.read : Memory → Nat → Option Byte
  | [], _ => none
  | (x, v) :: t, a => if x = a then some v else Memory.read t a

/-- `fb[a] <- b` (R10), keeping the addresses strictly rising. -/
def Memory.write : Memory → Nat → Byte → Memory
  | [], a, b => [(a, b)]
  | (x, v) :: t, a, b =>
    if a < x then (a, b) :: (x, v) :: t
    else if a = x then (a, b) :: t
    else (x, v) :: Memory.write t a b

/-- `MemRead(a, n)` (R10, R63): the `n` bytes from address `a`, first byte first; none if one of them was never
written. -/
def Memory.readN (m : Memory) : Nat → Nat → Option (List Byte)
  | _, 0 => some []
  | a, n + 1 =>
    match Memory.read m a, Memory.readN m (a + 1) n with
    | some b, some bs => some (b :: bs)
    | _, _ => none

/-- The canonical form: addresses strictly rising, each below `fbSize`. An unlisted address has no value, so no
entry can equal it. -/
abbrev Memory.wf (m : Memory) : Prop :=
  m.Pairwise (fun c d => c.1 < d.1) ∧ ∀ c ∈ m, c.1 < fbSize

/-- `emit` (R10): append output events, in order. -/
def State.emit (evs : List OutEvent) (s : State) : State := { s with out := s.out ++ evs }

/-- Hand a direct call's result to the caller (R265). -/
def State.answer (r : Result) (s : State) : State := { s with returns := s.returns ++ [r] }

/-- Hand one outbound chunk to the transport (R242, R79). -/
def State.handOver (chunk : List Byte) (s : State) : State := { s with tx := s.tx ++ [chunk] }

/-- Go on with `f` after a step that may stop. -/
def andThen (o : Host.Outcome State Fault Refusal) (f : State → Host.Outcome State Fault Refusal) :
    Host.Outcome State Fault Refusal :=
  match o with
  | .next s => f s
  | .fault r => .fault r
  | .refused r => .refused r

/-- Store one byte in the frame buffer. Addresses above 256 do not exist (R63). -/
def storeFb (a : Nat) (b : Byte) (s : State) : Host.Outcome State Fault Refusal :=
  if a < fbSize then .next { s with fb := Memory.write s.fb a b } else .fault (.fbOutOfRange a)

/-- `fb[0 : fbn)`, the payload-frame collected so far (R25). -/
def collected (s : State) : Except Fault (List Byte) :=
  if fbSize < s.fbn.toNat then .error (.fbOutOfRange (s.fbn.toNat - 1))
  else match Memory.readN s.fb 0 s.fbn.toNat with
    | some pf => .ok pf
    | none => .error .fbUnwritten

/-- Taking an error on the stream path (R269): its flag is set and its event emitted. Nothing is saved, there is
no handler and no mode change; registers keep the dropped candidate's values. -/
def takeError (e : Err) (dropped : List Byte) (s : State) : State :=
  (s.setFlag e.flag).emit [e.event dropped]

/-- The end of every candidate, good or bad: the hunt goes on at the next byte (R185). After an error this is all
the return there is (R270). -/
def resumeHunt (s : State) : State := { s with ph := .hunt }

end Sys2Proof.Machine
end

