-- ==== Sys2Proof/Machine/Control.lean ====
section
/-! DEFINITION. RESET (70_reset_and_hazards.md R300). -/

namespace Sys2Proof.Machine

/-- Every state element at its reset value (R36); `fb` is left unspecified. Inputs not yet taken and outputs
already handed over are not the block's state and stay (log 3). -/
def resetElements (s : State) : State :=
  { s with
    crc := 0xFFFF, ph := .hunt, len := 0, cnt := 0, fb := [], fbn := 0, crcLo := 0, status := 0, obs := [] }

/-- RESET (R300): no event. -/
def execReset (s : State) : Host.Outcome State Fault Refusal := .next (resetElements s)

end Sys2Proof.Machine
end

