-- ==== Sys2Proof/Config.lean ====
section
/-! DEFINITION. The open parameters of 00_scope.md R7: the opcode table, the reserved sensor-setup model
identifier and the observer capacity. They are constant (10_state.md R29) and have no value here: log 7. -/

namespace Sys2Proof

/-- The width `w` of a sub-length field, 1 or 2 bytes (30_encoding.md R108). -/
inductive SubWidth where
  | one | two
deriving DecidableEq, Repr

def SubWidth.bytes : SubWidth → Nat
  | .one => 1
  | .two => 2

/-- The numbers of a NESTED(f, o, w) row: `f` bytes of fixed fields, the sub-length at offset `o`, with
`o + w <= f` (R108). A row without that is no value of OPCODE_TABLE (U9): log 8. -/
structure NestedSize where
  f : Nat
  o : Nat
  w : SubWidth
  inside : o + w.bytes ≤ f
deriving DecidableEq, Repr

/-- The six payload shapes (R100). -/
inductive Shape where
  | zero | blob | list16 | mdlist
  | fixed (n : Nat)
  | nested (size : NestedSize)
deriving DecidableEq, Repr

/-- The kind of a variant; it plays no part in decoding (R105). -/
inductive Kind where
  | request | response | event | generic
deriving DecidableEq, Repr

/-- A variant's record in OPCODE_TABLE (R105). -/
structure Row where
  name  : String
  kind  : Kind
  shape : Shape
deriving DecidableEq, Repr

/-- The open parameters (R7). `table` gives the rows the spec does not fix: it is consulted only at the
opcodes R107 leaves to OPCODE_TABLE. -/
structure Params where
  table : Byte → Option Row
  sensorSetupModelId : Word
  nObs : Nat
deriving Inhabited

/-- The parameters of this block: opaque, so that every claim holds for all of them (D9, D11, D13; log 7). -/
opaque Config.params : Params

/-- A free value: what VALIDATE answers for bytes too few for the positions its pseudocode reads, where the spec
states no result (42_validator.md R182, R9). DESIGN CHOICE, log 25. -/
opaque Config.shortCandidateMatches : List Byte → Bool

end Sys2Proof
end

