-- ==== Sys2Proof/Machine/Crc.lean ====
section
/-! DEFINITION. The CRC generator (40_crc.md) and the check of a candidate (42_validator.md), with the meanings of
CRC_INIT, CRC_BYTE, CRC16 and VALIDATE. -/

namespace Sys2Proof.Machine

/-- The generator polynomial without its x^16 term (R130). -/
def crcPoly : Word := 0x8005

/-- `CRC_INIT()` (R130). -/
def crcInit : Word := 0xFFFF

/-- One of the eight shift steps (R131). -/
def crcShift (r : Word) : Word :=
  if r.getLsbD 15 then (r <<< 1) ^^^ crcPoly else r <<< 1

/-- `n` shift steps. -/
def crcShifts : Nat → Word → Word
  | 0, r => r
  | n + 1, r => crcShifts n (crcShift r)

/-- `CRC_BYTE(r, b)` (R131): the byte enters at bits 15 to 8, then eight shift steps. -/
def crcByte (r : Word) (b : Byte) : Word := crcShifts 8 (r ^^^ (b.setWidth 16 <<< 8))

/-- R132's loop from a given register value (R137 b). -/
def crcFrom (r : Word) (bytes : List Byte) : Word := bytes.foldl crcByte r

/-- `CRC16(s)` (R132). -/
def crc16 (bytes : List Byte) : Word := crcFrom crcInit bytes

/-- `CHECK(c, rx)`: all 16 bits equal (R181). -/
def check (c rx : Word) : Verdict := if c = rx then .isMatch else .isMismatch

/-- `VALIDATE(cand)` (R182), the pseudocode; its positions exist where `cand` has 6 + L bytes at least. -/
def validate (cand : List Byte) : Verdict :=
  let l := (cand.getD 2 0).toNat
  check (crc16 (slice cand 2 (4 + l))) (u16le (cand.getD (4 + l) 0) (cand.getD (5 + l) 0))

/-- CRC_INIT (R130). -/
def execCrcInit (s : State) : Host.Outcome State Fault Refusal :=
  .next (s.answer (.crc crcInit))

/-- CRC_BYTE (R131). -/
def execCrcByte (r : Word) (b : Byte) (s : State) : Host.Outcome State Fault Refusal :=
  .next (s.answer (.crc (crcByte r b)))

/-- CRC16 (R132). -/
def execCrc16 (bytes : List Byte) (s : State) : Host.Outcome State Fault Refusal :=
  .next (s.answer (.crc (crc16 bytes)))

/-- What VALIDATE answers for any bytes: the pseudocode's result where the positions it reads exist (R11: it
governs; it reads neither preamble byte nor what lies behind 6 + L), else a free value (log 25). -/
def verdictOf (cand : List Byte) : Verdict :=
  if minFrame + (cand.getD 2 0).toNat ≤ cand.length then validate cand
  else if Config.shortCandidateMatches cand then .isMatch
  else .isMismatch

/-- VALIDATE (R182). -/
def execValidate (cand : List Byte) (s : State) : Host.Outcome State Fault Refusal :=
  .next (s.answer (.verdict (verdictOf cand)))

end Sys2Proof.Machine
end

