-- ==== Sys2Proof/Machine/Table.lean ====
section
/-! DEFINITION. OPCODE_TABLE: the rows the spec fixes (30_encoding.md R106), the partition of the opcodes (R107)
and LOOKUP (43_mux.md R202). -/

namespace Sys2Proof.Machine

/-- The rows of every OPCODE_TABLE (R106). -/
def pingReqRow : Row := ⟨"PING_REQ", .request, .blob⟩
def deviceInitEvtRow : Row := ⟨"DEVICE_INIT_EVT", .event, .list16⟩
def zeroArgReq09Row : Row := ⟨"ZERO_ARG_REQ_09", .request, .zero⟩

/-- The encode-only row 0xFF (R106, R213). -/
def genericRow : Row := ⟨"GENERIC", .generic, .blob⟩

/-- `LOOKUP(op)` (R202): none is `unassigned`. Only 0x01 to 0x8C may be assigned, 0x01, 0x03 and 0x09 are
fixed, and GENERIC is never yielded (R107, D28). -/
def lookup (p : Params) (op : Byte) : Option Row :=
  if op = 0x01 then some pingReqRow
  else if op = 0x03 then some deviceInitEvtRow
  else if op = 0x09 then some zeroArgReq09Row
  else if 0x01 ≤ op.toNat ∧ op.toNat ≤ 0x8C then p.table op
  else none

/-- The row SERIALIZE uses: the row of OPCODE_TABLE, or GENERIC for 0xFF (44_tx_framer.md R240). -/
def encodeRow (p : Params) (op : Byte) : Option Row :=
  if op = opcodeGeneric then some genericRow else lookup p op

end Sys2Proof.Machine
end

