-- ==== Sys2Proof/Machine/Operands.lean ====
section
/-! DEFINITION. The operand forms: the six payload shapes read (30_encoding.md R100 to R104, R108) and written
(44_tx_framer.md R246), DECODE of a MSG (43_mux.md R201, R205), SERIALIZE and WRAP of one (R240, R241). -/

namespace Sys2Proof.Machine

/-- LIST16 (R103): little-endian pairs until the payload is exhausted; none on a remainder. -/
def parseIds : List Byte → Option (List Word)
  | [] => some []
  | [_] => none
  | lo :: hi :: rest => (parseIds rest).map (u16le lo hi :: ·)

/-- MDLIST (R104): descriptors until the payload is exhausted; none where one is cut short. Each round takes two
bytes at least, so `fuel` the payload's length is enough. -/
def parseDescs (sensorId : Word) : Nat → List Byte → Option (List ModelDesc)
  | _, [] => some []
  | fuel + 1, lo :: hi :: rest =>
    let id := u16le lo hi
    if id = sensorId then
      if rest.length < 10 then none
      else (parseDescs sensorId fuel (rest.drop 10)).map (⟨id, rest.take 10⟩ :: ·)
    else (parseDescs sensorId fuel rest).map (⟨id, []⟩ :: ·)
  | _, _ => none

/-- The sub-length field of a NESTED payload (R108); none only where the payload does not hold it. -/
def subLength (size : NestedSize) (payload : List Byte) : Option Nat :=
  match size.w, payload[size.o]?, payload[size.o + 1]? with
  | .one, some b, _ => some b.toNat
  | .two, some lo, some hi => some (u16le lo hi).toNat
  | _, _, _ => none

/-- NESTED(f, o, w) (R108): the fixed part and a blob of exactly the sub-length. -/
def parseNested (size : NestedSize) (payload : List Byte) : Option Fields :=
  if payload.length < size.f then none
  else if subLength size payload = some (payload.length - size.f) then
    some (.nested (payload.take size.f) (payload.drop size.f))
  else none

/-- The fields of a payload by its shape (R205); none is LengthMismatch. -/
def parseFields (p : Params) (shape : Shape) (payload : List Byte) : Option Fields :=
  match shape with
  | .zero => if payload = [] then some .empty else none
  | .blob => some (.blob payload)
  | .list16 => (parseIds payload).map .list16
  | .mdlist => (parseDescs p.sensorSetupModelId payload.length payload).map .mdlist
  | .fixed n => if payload.length = n then some (.fixed payload) else none
  | .nested size => parseNested size payload

/-- `PARSE(e, pf)` for the opcode and the payload of a well-formed MSG (R205). -/
def parse (p : Params) (e : Row) (op : Byte) (payload : List Byte) : Except Err Message :=
  match parseFields p e.shape payload with
  | some fields => .ok ⟨op, e.name, fields⟩
  | none => .error .lengthMismatch

/-- `DECODE(pf)` (R201): header, opcode, size, shape, in this order; the first that fails decides. -/
def decodeMsg (p : Params) : List Byte → Except Err Message
  | l :: op :: payload =>
    match lookup p op with
    | none => .error .opcodeMismatch
    | some e =>
      if payload.length = l.toNat then parse p e op payload else .error .lengthMismatch
  | _ => .error .lengthMismatch

/-- `DECODE_AS(x, buf)` (R221). -/
def decodeMsgAs (p : Params) (x : Byte) (buf : List Byte) : Except Err Message :=
  match buf with
  | _ :: op :: _ => if op = x then decodeMsg p buf else .error .opcodeMismatch
  | _ => .error .lengthMismatch

/-- The bytes of a ModelDescriptor (R104, R246); none if it is no value of the variant: `config` is exactly 10
bytes with the reserved identifier, absent with any other. -/
def encodeDesc (sensorId : Word) (d : ModelDesc) : Option (List Byte) :=
  if d.config.length = (if d.modelId = sensorId then 10 else 0) then
    some (lowByte d.modelId :: highByte d.modelId :: d.config)
  else none

/-- The bytes of a descriptor list. -/
def encodeDescs (sensorId : Word) : List ModelDesc → Option (List Byte)
  | [] => some []
  | d :: ds =>
    match encodeDesc sensorId d, encodeDescs sensorId ds with
    | some b, some bs => some (b ++ bs)
    | _, _ => none

/-- The fixed part of a NESTED message with its sub-length field set (R246). -/
def setSubLength (size : NestedSize) (n : Nat) (fixedPart : List Byte) : List Byte :=
  match size.w with
  | .one => fixedPart.set size.o (BitVec.ofNat 8 n)
  | .two =>
    (fixedPart.set size.o (lowByte (BitVec.ofNat 16 n))).set (size.o + 1) (highByte (BitVec.ofNat 16 n))

/-- `ENCODE_FIELDS(shape, fields)` (R246); none where the fields are no value of a variant of that shape: log
11. -/
def encodeFields (p : Params) : Shape → Fields → Option (List Byte)
  | .zero, .empty => some []
  | .blob, .blob data => some data
  | .list16, .list16 ids => some (ids.flatMap fun id => [lowByte id, highByte id])
  | .mdlist, .mdlist descs => encodeDescs p.sensorSetupModelId descs
  | .fixed n, .fixed bytes => if bytes.length = n then some bytes else none
  | .nested size, .nested fixedPart blob =>
    if fixedPart.length = size.f then some (setSubLength size blob.length fixedPart ++ blob) else none
  | _, _ => none

/-- What SERIALIZE comes to: bytes, an error, or fields that are no value of the variant. -/
inductive Serialized where
  | bytes (pf : List Byte)
  | error (e : Err)
  | notAValue
deriving DecidableEq, Repr

/-- `SERIALIZE(m)` (R240): LENGTH is always computed from the fields; a payload over 255 bytes is refused with
LengthMismatch (R247). -/
def serializeMsg (p : Params) (op : Byte) (fields : Fields) : Serialized :=
  match encodeRow p op with
  | none => .error .opcodeMismatch
  | some e =>
    match encodeFields p e.shape fields with
    | none => .notAValue
    | some body => if maxLength < body.length then .error .lengthMismatch else .bytes (msg op body)

/-- `WRAP(pf)` (R241): preamble, MSG, CRC low byte first. -/
def wrapMsg (pf : List Byte) : List Byte :=
  preamble0 :: preamble1 :: (pf ++ [lowByte (crc16 pf), highByte (crc16 pf)])

end Sys2Proof.Machine
end

