-- ==== Sys2Proof/Machine/Mux.lean ====
section
/-! DEFINITION. The opcode multiplexer (43_mux.md): dispatch and delivery, the direct decode calls, the
observers. -/

namespace Sys2Proof.Machine

/-- Delivery of a message to every observer present, first registered first (R225). Observers return (D18; log
16). -/
def deliver (m : Message) (s : State) : State := s.emit (s.obs.map fun o => .deliver o m)

/-- `DISPATCH(pf)` (R200): deliver the decoded message, or drop the frame (R203, R204). -/
def dispatchMsg (pf : List Byte) (s : State) : State :=
  match decodeMsg Config.params pf with
  | .ok m => deliver m s
  | .error e => takeError e pf s

/-- The result of a direct decode. -/
def decodeResult : Except Err Message → Result
  | .ok m => .message m
  | .error e => .error e

/-- DISPATCH (R200), of any bytes: DECODE checks their size (R201; log 19). -/
def execDispatch (pf : List Byte) (s : State) : Host.Outcome State Fault Refusal :=
  .next (dispatchMsg pf s)

/-- DESERIALIZE (R220). -/
def execDeserialize (buf : List Byte) (s : State) : Host.Outcome State Fault Refusal :=
  .next (s.answer (decodeResult (decodeMsg Config.params buf)))

/-- DECODE_AS (R221). -/
def execDecodeAs (x : Byte) (buf : List Byte) (s : State) : Host.Outcome State Fault Refusal :=
  .next (s.answer (decodeResult (decodeMsgAs Config.params x buf)))

/-- REGISTER_OBSERVER (R226): no change if present, refused at the capacity, else appended. -/
def execRegisterObserver (o : ObserverId) (s : State) : Host.Outcome State Fault Refusal :=
  if o ∈ s.obs then .next s
  else if Config.params.nObs ≤ s.obs.length then .next (s.answer .refused)
  else .next { s with obs := s.obs ++ [o] }

/-- UNREGISTER_OBSERVER (R227). The order of the others is kept. -/
def execUnregisterObserver (o : ObserverId) (s : State) : Host.Outcome State Fault Refusal :=
  .next { s with obs := s.obs.filter (· ≠ o) }

end Sys2Proof.Machine
end

