-- ==== Sys2Proof/Machine/Receive.lean ====
section
/-! DEFINITION. The frame reassembler (41_reassembler.md): the reference function EXTRACT_FRAMES, the seven phase
rules, RX_BYTE and RX_CHUNK, and the validator's accept and drop (42_validator.md R183, R184). -/

namespace Sys2Proof.Machine

/-- The buffer from its first 0xAA 0x55 on (R150 step 1). -/
def findPreamble : List Byte → Option (List Byte)
  | [] => none
  | b0 :: rest =>
    match rest with
    | [] => none
    | b1 :: _ => if b0 = preamble0 ∧ b1 = preamble1 then some (b0 :: rest) else findPreamble rest

/-- The loop of EXTRACT_FRAMES (R150). Each round but the last consumes six bytes at least, so `fuel` the
buffer's length is enough. -/
def extractLoop : Nat → List Byte → List (List Byte) × List Byte
  | 0, buf => ([], buf)
  | fuel + 1, buf =>
    match findPreamble buf with
    | none => ([], buf)
    | some b =>
      let l := (b.getD 2 0).toNat
      if b.length < minFrame then ([], b)
      else if b.length < minFrame + l then ([], b)
      else
        let r := extractLoop fuel (b.drop (minFrame + l))
        if validate (b.take (minFrame + l)) = .isMatch then (slice b 2 (4 + l) :: r.1, r.2) else r

/-- `EXTRACT_FRAMES(buf)` (R150). -/
def extractFrames (buf : List Byte) : List (List Byte) × List Byte := extractLoop (buf.length + 1) buf

/-- The hunt discards bytes: an event for each, and SKIP (R151, R152). -/
def skipBytes (bs : List Byte) (s : State) : State := (s.setFlag skipFlag).emit (bs.map .logSkip)

/-- Phase HUNT (R151). -/
def rxHunt (b : Byte) (s : State) : Host.Outcome State Fault Refusal :=
  if b = preamble0 then .next { s with ph := .hunt55 } else .next (skipBytes [b] s)

/-- Phase HUNT55 (R152). -/
def rxHunt55 (b : Byte) (s : State) : Host.Outcome State Fault Refusal :=
  if b = preamble1 then .next { s with ph := .len, crc := crcInit, fbn := 0 }
  else if b = preamble0 then .next (skipBytes [preamble0] s)
  else .next { skipBytes [preamble0, b] s with ph := .hunt }

/-- What phases LEN, OPC and PAY share (R153 to R155): store the byte at `fb[a]`, `n` bytes are valid, the byte
enters the CRC. -/
def collect (a : Nat) (n : BitVec 9) (b : Byte) (s : State) : Host.Outcome State Fault Refusal :=
  andThen (storeFb a b s) fun t => .next { t with fbn := n, crc := crcByte s.crc b }

/-- Phase LEN, the length decoder (R153). -/
def rxLen (b : Byte) (s : State) : Host.Outcome State Fault Refusal :=
  andThen (collect 0 1 b s) fun t => .next { t with len := b, cnt := 0, ph := .opc }

/-- Phase OPC (R154). -/
def rxOpc (b : Byte) (s : State) : Host.Outcome State Fault Refusal :=
  andThen (collect 1 2 b s) fun t => .next { t with ph := if s.len = 0 then .crclo else .pay }

/-- Phase PAY (R155). The compare is on naturals (R135). -/
def rxPay (b : Byte) (s : State) : Host.Outcome State Fault Refusal :=
  andThen (collect (2 + s.cnt.toNat) (s.fbn + 1) b s) fun t =>
    .next { t with
      cnt := s.cnt + 1
      ph := if s.cnt.toNat + 1 = s.len.toNat then .crclo else .pay }

/-- Phase CRCLO (R156). -/
def rxCrclo (b : Byte) (s : State) : Host.Outcome State Fault Refusal :=
  .next { s with crcLo := b, ph := .crchi }

/-- Accept (R183): emit the payload-frame, then dispatch it in the same step. -/
def accept (pf : List Byte) (s : State) : State := dispatchMsg pf (s.emit [.frame pf])

/-- Drop (R184): the whole candidate, trailer included. -/
def dropCandidate (pf : List Byte) (b : Byte) (s : State) : State :=
  takeError .crcMismatch (preamble0 :: preamble1 :: (pf ++ [s.crcLo, b])) s

/-- Phase CRCHI (R157): compare the trailer, accept or drop, and hunt again (R185). -/
def rxCrchi (b : Byte) (s : State) : Host.Outcome State Fault Refusal :=
  match collected s with
  | .error f => .fault f
  | .ok pf =>
    match check s.crc (u16le s.crcLo b) with
    | .isMatch => .next (resumeHunt (accept pf s))
    | .isMismatch => .next (resumeHunt (dropCandidate pf b s))

/-- The step for one received byte: the rule of the phase before the step (R158). -/
def receiveByte (b : Byte) (s : State) : Host.Outcome State Fault Refusal :=
  match s.ph with
  | .hunt => rxHunt b s
  | .hunt55 => rxHunt55 b s
  | .len => rxLen b s
  | .opc => rxOpc b s
  | .pay => rxPay b s
  | .crclo => rxCrclo b s
  | .crchi => rxCrchi b s

/-- The bytes of a chunk, one after the other (R160). -/
def receiveBytes : List Byte → State → Host.Outcome State Fault Refusal
  | [], s => .next s
  | b :: bs, s => andThen (receiveByte b s) (receiveBytes bs)

/-- A row RX_BYTE.<phase> acts only when `ph` selects it (R158; log 9). -/
def inPhase (q : Phase) (f : State → Host.Outcome State Fault Refusal) (s : State) :
    Host.Outcome State Fault Refusal :=
  if s.ph = q then f s else .refused .phaseNotSelected

/-- RX_BYTE.HUNT (R151). -/
def execRxHunt (b : Byte) (s : State) : Host.Outcome State Fault Refusal := inPhase .hunt (rxHunt b) s

/-- RX_BYTE.HUNT55 (R152). -/
def execRxHunt55 (b : Byte) (s : State) : Host.Outcome State Fault Refusal := inPhase .hunt55 (rxHunt55 b) s

/-- RX_BYTE.LEN (R153). -/
def execRxLen (b : Byte) (s : State) : Host.Outcome State Fault Refusal := inPhase .len (rxLen b) s

/-- RX_BYTE.OPC (R154). -/
def execRxOpc (b : Byte) (s : State) : Host.Outcome State Fault Refusal := inPhase .opc (rxOpc b) s

/-- RX_BYTE.PAY (R155). -/
def execRxPay (b : Byte) (s : State) : Host.Outcome State Fault Refusal := inPhase .pay (rxPay b) s

/-- RX_BYTE.CRCLO (R156). -/
def execRxCrclo (b : Byte) (s : State) : Host.Outcome State Fault Refusal := inPhase .crclo (rxCrclo b) s

/-- RX_BYTE.CRCHI (R157). -/
def execRxCrchi (b : Byte) (s : State) : Host.Outcome State Fault Refusal := inPhase .crchi (rxCrchi b) s

/-- RX_BYTE (R158). -/
def execRxByte (b : Byte) (s : State) : Host.Outcome State Fault Refusal := receiveByte b s

/-- RX_CHUNK (R160); an empty chunk is no step and changes nothing (R81). -/
def execRxChunk (bytes : List Byte) (s : State) : Host.Outcome State Fault Refusal := receiveBytes bytes s

/-- EXTRACT_FRAMES (R150). -/
def execExtractFrames (buf : List Byte) (s : State) : Host.Outcome State Fault Refusal :=
  .next (s.answer (.frames (extractFrames buf).1 (extractFrames buf).2))

end Sys2Proof.Machine
end

