-- ==== Sys2Proof/Machine/Frames.lean ====
section
/-! DEFINITION. The six FRAME rows of opcode_table.json: a frame on the wire is received byte by byte (41_reassembler.md
R160); from phase HUNT it ends in a CRC drop, or in DISPATCH by the rule of its opcode (43_mux.md R210 to R215). -/

namespace Sys2Proof.Machine

/-- The arrival of a whole frame. -/
def receiveFrame (op : Byte) (payload : List Byte) (crcl crch : Byte) (s : State) :
    Host.Outcome State Fault Refusal :=
  receiveBytes (frame op payload crcl crch) s

/-- PING_REQ (R210). -/
def execPingReq (payload : List Byte) (crcl crch : Byte) (s : State) : Host.Outcome State Fault Refusal :=
  receiveFrame 0x01 payload crcl crch s

/-- DEVICE_INIT_EVT (R211). -/
def execDeviceInitEvt (payload : List Byte) (crcl crch : Byte) (s : State) : Host.Outcome State Fault Refusal :=
  receiveFrame 0x03 payload crcl crch s

/-- ZERO_ARG_REQ_09 (R212). -/
def execZeroArgReq09 (payload : List Byte) (crcl crch : Byte) (s : State) : Host.Outcome State Fault Refusal :=
  receiveFrame 0x09 payload crcl crch s

/-- GENERIC, received: dropped with OpcodeMismatch by LOOKUP (R213). -/
def execGeneric (payload : List Byte) (crcl crch : Byte) (s : State) : Host.Outcome State Fault Refusal :=
  receiveFrame opcodeGeneric payload crcl crch s

/-- UNASSIGNED (R214). -/
def execUnassigned (op : Byte) (payload : List Byte) (crcl crch : Byte) (s : State) :
    Host.Outcome State Fault Refusal :=
  receiveFrame op payload crcl crch s

/-- TABLE_ROW (R215): by the row's shape. -/
def execTableRow (op : Byte) (payload : List Byte) (crcl crch : Byte) (s : State) :
    Host.Outcome State Fault Refusal :=
  receiveFrame op payload crcl crch s

end Sys2Proof.Machine
end

