-- ==== Sys2Proof/Machine/Transmit.lean ====
section
/-! DEFINITION. The transmit framer (44_tx_framer.md): it reads no receive state and writes none (R249). -/

namespace Sys2Proof.Machine

/-- SERIALIZE (R240). -/
def execSerialize (op : Byte) (fields : Fields) (s : State) : Host.Outcome State Fault Refusal :=
  match serializeMsg Config.params op fields with
  | .bytes pf => .next (s.answer (.bytes pf))
  | .error e => .next (s.answer (.error e))
  | .notAValue => .refused .notAValue

/-- WRAP (R241). What is no well-formed MSG is outside its operand domain (U17): log 10. -/
def execWrap (pf : List Byte) (s : State) : Host.Outcome State Fault Refusal :=
  if isMsg pf then .next (s.answer (.bytes (wrapMsg pf))) else .refused .notAMsg

/-- SEND (R242): WRAP of SERIALIZE, handed to the transport as one chunk; an error goes to the caller and nothing
is handed over. A success has no result beside the chunk (log 24). -/
def execSend (op : Byte) (fields : Fields) (s : State) : Host.Outcome State Fault Refusal :=
  match serializeMsg Config.params op fields with
  | .bytes pf => .next (s.handOver (wrapMsg pf))
  | .error e => .next (s.answer (.error e))
  | .notAValue => .refused .notAValue

end Sys2Proof.Machine
end

