-- ==== Sys2Proof/Machine/Dispatch.lean ====
section
/-! DEFINITION. One arm per constructor of Instr. -/

namespace Sys2Proof.Machine

def exec (i : Instr) (s : State) : Host.Outcome State Fault Refusal :=
  match i with
  | .pingReq payload crcl crch => Sys2Proof.Machine.execPingReq payload crcl crch s
  | .deviceInitEvt payload crcl crch => Sys2Proof.Machine.execDeviceInitEvt payload crcl crch s
  | .zeroArgReq09 payload crcl crch => Sys2Proof.Machine.execZeroArgReq09 payload crcl crch s
  | .generic payload crcl crch => Sys2Proof.Machine.execGeneric payload crcl crch s
  | .unassigned op payload crcl crch => Sys2Proof.Machine.execUnassigned op payload crcl crch s
  | .tableRow op payload crcl crch => Sys2Proof.Machine.execTableRow op payload crcl crch s
  | .reset => Sys2Proof.Machine.execReset s
  | .crcInit => Sys2Proof.Machine.execCrcInit s
  | .crcByte r b => Sys2Proof.Machine.execCrcByte r b s
  | .crc16 bytes => Sys2Proof.Machine.execCrc16 bytes s
  | .rxHunt b => Sys2Proof.Machine.execRxHunt b s
  | .rxHunt55 b => Sys2Proof.Machine.execRxHunt55 b s
  | .rxLen b => Sys2Proof.Machine.execRxLen b s
  | .rxOpc b => Sys2Proof.Machine.execRxOpc b s
  | .rxPay b => Sys2Proof.Machine.execRxPay b s
  | .rxCrclo b => Sys2Proof.Machine.execRxCrclo b s
  | .rxCrchi b => Sys2Proof.Machine.execRxCrchi b s
  | .rxByte b => Sys2Proof.Machine.execRxByte b s
  | .rxChunk bytes => Sys2Proof.Machine.execRxChunk bytes s
  | .extractFrames buf => Sys2Proof.Machine.execExtractFrames buf s
  | .validate cand => Sys2Proof.Machine.execValidate cand s
  | .dispatch pf => Sys2Proof.Machine.execDispatch pf s
  | .deserialize buf => Sys2Proof.Machine.execDeserialize buf s
  | .decodeAs x buf => Sys2Proof.Machine.execDecodeAs x buf s
  | .registerObserver o => Sys2Proof.Machine.execRegisterObserver o s
  | .unregisterObserver o => Sys2Proof.Machine.execUnregisterObserver o s
  | .serialize op fields => Sys2Proof.Machine.execSerialize op fields s
  | .wrap pf => Sys2Proof.Machine.execWrap pf s
  | .send op fields => Sys2Proof.Machine.execSend op fields s

end Sys2Proof.Machine
end

