-- ==== Sys2Proof/WellFormed.lean ====
section
/-! DEFINITION. Which terms of Instr are instructions: a payload of at most 255 bytes (30_encoding.md R94), the
opcode of a row in the row's class (R107), the operand of WRAP in the form the table shows. -/

namespace Sys2Proof

open Sys2Proof.Machine

/-- The checks, as a Bool. -/
def Instr.wf : Instr → Bool
  | .pingReq payload _ _ => payload.length ≤ maxLength
  | .deviceInitEvt payload _ _ => payload.length ≤ maxLength
  | .zeroArgReq09 payload _ _ => payload.length ≤ maxLength
  | .generic payload _ _ => payload.length ≤ maxLength
  | .unassigned op payload _ _ =>
      payload.length ≤ maxLength && op != opcodeGeneric && (lookup Config.params op).isNone
  | .tableRow op payload _ _ =>
      payload.length ≤ maxLength && op != 0x01 && op != 0x03 && op != 0x09
        && (lookup Config.params op).isSome
  | .wrap pf => isMsg pf
  | .reset | .crcInit | .crcByte _ _ | .crc16 _ => true
  | .rxHunt _ | .rxHunt55 _ | .rxLen _ | .rxOpc _ | .rxPay _ | .rxCrclo _ | .rxCrchi _ => true
  | .rxByte _ | .rxChunk _ | .extractFrames _ | .validate _ => true
  | .dispatch _ | .deserialize _ | .decodeAs _ _ => true
  | .registerObserver _ | .unregisterObserver _ => true
  | .serialize _ _ | .send _ _ => true

/-- `i` is an instruction. -/
abbrev Instr.WellFormed (i : Instr) : Prop := i.wf = true

end Sys2Proof
end

