-- ==== Sys2Proof/Decode.lean ====
section
/-! DEFINITION. Decoding: a frame from bytes (30_encoding.md R91, R93, R107), an event from its name and operand
(opcode_table.json, column encoding), and the encoder from the same tables. -/

namespace Sys2Proof

open Sys2Proof.Machine

/-- The FRAME row an opcode selects (opcode_table.json; UNASSIGNED has the lowest priority). -/
def frameRow (op : Byte) (payload : List Byte) (crcl crch : Byte) : Instr :=
  if op = 0x01 then .pingReq payload crcl crch
  else if op = 0x03 then .deviceInitEvt payload crcl crch
  else if op = 0x09 then .zeroArgReq09 payload crcl crch
  else if op = opcodeGeneric then .generic payload crcl crch
  else match lookup Config.params op with
    | some _ => .tableRow op payload crcl crch
    | none => .unassigned op payload crcl crch

/-- The frame at the head of a byte string, and the bytes after it (R93): 0xAA 0x55, LENGTH, and 6 + LENGTH
bytes in all. -/
def decodeFrame : List Byte → Except DecodeError (Instr × List Byte)
  | p0 :: p1 :: l :: op :: rest =>
    if p0 = preamble0 ∧ p1 = preamble1 then
      match rest.drop l.toNat with
      | crcl :: crch :: after => .ok (frameRow op (rest.take l.toNat) crcl crch, after)
      | _ => .error .incomplete
    else .error .noPreamble
  | p0 :: p1 :: _ => if p0 = preamble0 ∧ p1 = preamble1 then .error .incomplete else .error .noPreamble
  | _ => .error .noPreamble

/-- The event a name and an operand give. CRC_BYTE's operand is `rrrrrrrrrrrrrrrr bbbbbbbb`, the register's
high byte first; DECODE_AS's is `xxxxxxxx <buf>`; WRAP's is a MSG of 2 + L bytes (U17). -/
def decodeEvent : EventOp → List Byte → Except DecodeError Instr
  | .reset, [] => .ok .reset
  | .crcInit, [] => .ok .crcInit
  | .crcByte, [rh, rl, b] => .ok (.crcByte (u16le rl rh) b)
  | .crc16, bytes => .ok (.crc16 bytes)
  | .rxHunt, [b] => .ok (.rxHunt b)
  | .rxHunt55, [b] => .ok (.rxHunt55 b)
  | .rxLen, [b] => .ok (.rxLen b)
  | .rxOpc, [b] => .ok (.rxOpc b)
  | .rxPay, [b] => .ok (.rxPay b)
  | .rxCrclo, [b] => .ok (.rxCrclo b)
  | .rxCrchi, [b] => .ok (.rxCrchi b)
  | .rxChunk, bytes => .ok (.rxChunk bytes)
  | .extractFrames, buf => .ok (.extractFrames buf)
  | .validate, cand => .ok (.validate cand)
  | .dispatch, pf => .ok (.dispatch pf)
  | .deserialize, buf => .ok (.deserialize buf)
  | .decodeAs, x :: buf => .ok (.decodeAs x buf)
  | .wrap, pf => if isMsg pf then .ok (.wrap pf) else .error .operandForm
  | _, _ => .error .operandForm

/-- The instruction an input stands for, and what is left of its bytes. Of a received chunk it is RX_BYTE of its
first byte (00_scope.md R13 b, R18). -/
def decode : Input → Except DecodeError (Instr × List Byte)
  | .chunk [] => .error .emptyChunk
  | .chunk (b :: bs) => .ok (.rxByte b, bs)
  | .frame bytes => decodeFrame bytes
  | .event op operand =>
    match decodeEvent op operand with
    | .ok i => .ok (i, [])
    | .error e => .error e
  | .observer .register o => .ok (.registerObserver o, [])
  | .observer .unregister o => .ok (.unregisterObserver o, [])
  | .message .serialize op fields => .ok (.serialize op fields, [])
  | .message .send op fields => .ok (.send op fields, [])

/-- The input a well-formed instruction is written as. -/
def encode : Instr → Input
  | .pingReq payload crcl crch => .frame (frame 0x01 payload crcl crch)
  | .deviceInitEvt payload crcl crch => .frame (frame 0x03 payload crcl crch)
  | .zeroArgReq09 payload crcl crch => .frame (frame 0x09 payload crcl crch)
  | .generic payload crcl crch => .frame (frame opcodeGeneric payload crcl crch)
  | .unassigned op payload crcl crch => .frame (frame op payload crcl crch)
  | .tableRow op payload crcl crch => .frame (frame op payload crcl crch)
  | .reset => .event .reset []
  | .crcInit => .event .crcInit []
  | .crcByte r b => .event .crcByte [highByte r, lowByte r, b]
  | .crc16 bytes => .event .crc16 bytes
  | .rxHunt b => .event .rxHunt [b]
  | .rxHunt55 b => .event .rxHunt55 [b]
  | .rxLen b => .event .rxLen [b]
  | .rxOpc b => .event .rxOpc [b]
  | .rxPay b => .event .rxPay [b]
  | .rxCrclo b => .event .rxCrclo [b]
  | .rxCrchi b => .event .rxCrchi [b]
  | .rxByte b => .chunk [b]
  | .rxChunk bytes => .event .rxChunk bytes
  | .extractFrames buf => .event .extractFrames buf
  | .validate cand => .event .validate cand
  | .dispatch pf => .event .dispatch pf
  | .deserialize buf => .event .deserialize buf
  | .decodeAs x buf => .event .decodeAs (x :: buf)
  | .registerObserver o => .observer .register o
  | .unregisterObserver o => .observer .unregister o
  | .serialize op fields => .message .serialize op fields
  | .wrap pf => .event .wrap pf
  | .send op fields => .message .send op fields

/-- Byte `k` of a number, byte 0 least significant. -/
def byteOf (w k : Nat) : Byte := BitVec.ofNat 8 (w >>> (8 * k))

/-- The input that bits `w` of a table row stand for. A FRAME row's 32 bits are the header word H, first wire
byte most significant (R92); the rest of the frame is zeros, up to the longest frame of 261 bytes. Of the EVENT
rows, which have no bit encoding, 8 bits are read as RX_BYTE's `bbbbbbbb` and 24 bits as CRC_BYTE's operand:
DESIGN CHOICE, log 18. -/
def tableInput (nbits w : Nat) : Option Input :=
  if nbits = 32 then
    some (.frame ([byteOf w 3, byteOf w 2, byteOf w 1, byteOf w 0] ++ List.replicate 257 0))
  else if nbits = 24 then some (.event .crcByte [byteOf w 2, byteOf w 1, byteOf w 0])
  else if nbits = 8 then some (.chunk [byteOf w 0])
  else none

/-- The instruction the decoder reads from a table row's bits. -/
def decodeTableWord (nbits w : Nat) : Option Instr :=
  match tableInput nbits w with
  | some inp =>
    match decode inp with
    | .ok (i, _) => some i
    | .error _ => none
  | none => none

end Sys2Proof
end

