-- ==== Sys2Proof/Machine/Fetch.lean ====
section
/-! DEFINITION. What the block takes next from the environment's queue (00_scope.md R13, 20_memory.md R61, R76). -/

namespace Sys2Proof.Machine

/-- What stands at the head of the queue. -/
inductive Fetched where
  | idle                          -- nothing: the block waits (R312, R277)
  | discard (t : State)           -- an empty chunk: no step of the block (R81, D21)
  | run (i : Instr) (t : State)   -- an instruction, and the state with its input taken
  | reject (e : DecodeError)      -- no instruction
deriving DecidableEq, Repr

/-- The queue with the bytes left over put back at its head, as received bytes. -/
def putBack (bytes : List Byte) (rest : List Input) : List Input :=
  match bytes with
  | [] => rest
  | b :: bs => .chunk (b :: bs) :: rest

/-- The next thing to do. Of a received chunk one byte is taken; the rest stays at the head (R13 b, R320). -/
def fetch (s : State) : Fetched :=
  match s.inbox with
  | [] => .idle
  | .chunk [] :: rest => .discard { s with inbox := rest }
  | inp :: rest =>
    match decode inp with
    | .ok (i, after) => .run i { s with inbox := putBack after rest }
    | .error e => .reject e

/-- An input put at the head of the queue. -/
def placeInput (inp : Input) (s : State) : State := { s with inbox := inp :: s.inbox }

end Sys2Proof.Machine
end

