-- ==== Sys2Proof/Machine/Step.lean ====
section
/-! DEFINITION. One step: the head of the environment's queue is taken, decoded and run. -/

namespace Sys2Proof.Machine

/-- One step. With nothing offered the block waits and keeps all its state (60_exceptions.md R277; log 4). -/
def step (s : State) : Host.Outcome State Fault Refusal :=
  match fetch s with
  | .idle => .next s
  | .discard t => .next t
  | .run i t => exec i t
  | .reject e => .refused (.undecodable e)

/-- The state with the instruction of a table row's bits where step takes its next input (log 17). -/
def State.withFetchWord (s : State) (nbits w : Nat) : State :=
  match tableInput nbits w with
  | some inp => placeInput inp s
  | none => s

end Sys2Proof.Machine
end

