-- ==== Sys2Proof/Safety.lean ====
section
/-! DEFINITION. The words claims use: what is pending, the invariants by phase, which bytes an event accounts for,
the state a received frame leaves, the published CRC table. -/

namespace Sys2Proof.Machine

/-- The bytes collected so far (10_state.md R25). -/
def State.body (s : State) : List Byte := (Memory.readN s.fb 0 s.fbn.toNat).getD []

/-- `pending(state)` (R32): the bytes the machine logically holds. -/
def State.pending (s : State) : List Byte :=
  match s.ph with
  | .hunt => []
  | .hunt55 => [preamble0]
  | .len | .opc | .pay | .crclo => preamble0 :: preamble1 :: s.body
  | .crchi => preamble0 :: preamble1 :: (s.body ++ [s.crcLo])

/-- The minimal remainder of a leftover (R32): cut at its first 0xAA 0x55; without one, a final 0xAA or nothing. -/
def minimalRemainder : List Byte → List Byte
  | [] => []
  | b0 :: rest =>
    match rest with
    | [] => if b0 = preamble0 then [b0] else []
    | b1 :: _ => if b0 = preamble0 ∧ b1 = preamble1 then b0 :: rest else minimalRemainder rest

/-- The payload-frames of the FRAME events, in order (R37). -/
def framesOf (evs : List OutEvent) : List (List Byte) :=
  evs.filterMap fun e => match e with
    | .frame pf => some pf
    | _ => none

/-- The received bytes an event accounts for (R37): a skipped byte, a dropped candidate, or the frame a
payload-frame came in. -/
def OutEvent.accounts : OutEvent → List Byte
  | .logSkip b => [b]
  | .logCrcDrop cand => cand
  | .frame pf => wrapMsg pf
  | .deliver _ _ => []
  | .logDecodeDrop _ _ => []

/-- The least index of 0xAA 0x55 in a buffer (41_reassembler.md R150 step 1). -/
def FirstPreamble (buf : List Byte) (p : Nat) : Prop :=
  (buf[p]? = some 0xAA ∧ buf[p + 1]? = some 0x55) ∧
    ∀ i < p, ¬ (buf[i]? = some 0xAA ∧ buf[i + 1]? = some 0x55)

/-- The first `n` bytes of the frame buffer are a prefix of a MSG whose LENGTH is `len`, and `crc` is their CRC
(10_state.md R21, R33). -/
def Covered (s : State) (n : Nat) : Prop :=
  ∃ pf, Memory.readN s.fb 0 n = some pf ∧ pf.head? = some s.len ∧ s.crc = crc16 pf

/-- The invariants by phase (R33). -/
def PhaseInv (s : State) : Prop :=
  match s.ph with
  | .hunt | .hunt55 => True
  | .len => s.fbn = 0 ∧ s.crc = 0xFFFF
  | .opc => s.fbn = 1 ∧ s.cnt = 0 ∧ Covered s 1
  | .pay => s.cnt.toNat < s.len.toNat ∧ s.fbn.toNat = 2 + s.cnt.toNat ∧ Covered s (2 + s.cnt.toNat)
  | .crclo | .crchi => s.cnt = s.len ∧ s.fbn.toNat = 2 + s.len.toNat ∧ Covered s (2 + s.len.toNat)

/-- The invariant of the block: the memory's canonical form, the ranges of `cnt` and `fbn` (R20, R24), the
observers without duplicates and within the capacity (R28), and R33. -/
structure Inv (s : State) : Prop where
  memory : Memory.wf s.fb
  count : s.cnt.toNat ≤ s.len.toNat
  filled : s.fbn.toNat ≤ 257
  observers : s.obs.Nodup
  capacity : s.obs.length ≤ Config.params.nObs
  phase : PhaseInv s

/-- The phase after a received byte, by the transition table (R159). -/
def nextPhase (s : State) (b : Byte) : Phase :=
  match s.ph with
  | .hunt => if b = 0xAA then .hunt55 else .hunt
  | .hunt55 => if b = 0x55 then .len else if b = 0xAA then .hunt55 else .hunt
  | .len => .opc
  | .opc => if s.len = 0 then .crclo else .pay
  | .pay => if s.cnt.toNat + 1 < s.len.toNat then .pay else .crclo
  | .crclo => .crchi
  | .crchi => .hunt

/-- The row RX_BYTE.<phase> that `ph` selects (R158). -/
def phaseRow (ph : Phase) (b : Byte) : Instr :=
  match ph with
  | .hunt => .rxHunt b
  | .hunt55 => .rxHunt55 b
  | .len => .rxLen b
  | .opc => .rxOpc b
  | .pay => .rxPay b
  | .crclo => .rxCrclo b
  | .crchi => .rxCrchi b

/-- What a whole frame received from phase HUNT leaves in the registers and the frame buffer, accepted or dropped
(R152 to R157, 60_exceptions.md R269), and what it does not touch. -/
structure ReceivedFrame (s t : State) (op : Byte) (payload : List Byte) (crcl : Byte) : Prop where
  ph : t.ph = .hunt
  crc : t.crc = crc16 (msg op payload)
  len : t.len.toNat = payload.length
  cnt : t.cnt.toNat = payload.length
  fbn : t.fbn.toNat = 2 + payload.length
  crcLo : t.crcLo = crcl
  stored : Memory.readN t.fb 0 (2 + payload.length) = some (msg op payload)
  kept : ∀ a, 2 + payload.length ≤ a → Memory.read t.fb a = Memory.read s.fb a
  obs : t.obs = s.obs
  inbox : t.inbox = s.inbox
  returns : t.returns = s.returns
  tx : t.tx = s.tx

/-- In a NESTED value the sub-length field equals the blob's length (30_encoding.md R112); other shapes have no
such field. -/
def SubLengthAgrees : Shape → Fields → Prop
  | .nested size, .nested fixedPart blob => subLength size fixedPart = some blob.length
  | _, _ => True

/-- The direct calls that concern neither the receive machine nor the observers: the CRC functions,
EXTRACT_FRAMES, VALIDATE, the direct decode calls and the transmit framer (R35, R220, R249). -/
def isDirectCall : Instr → Bool
  | .crcInit | .crcByte _ _ | .crc16 _ | .extractFrames _ | .validate _ => true
  | .deserialize _ | .decodeAs _ _ | .serialize _ _ | .wrap _ | .send _ _ => true
  | _ => false

/-- The operations that receive bytes. -/
def isReceive : Instr → Bool
  | .pingReq _ _ _ | .deviceInitEvt _ _ _ | .zeroArgReq09 _ _ _ | .generic _ _ _ => true
  | .unassigned _ _ _ _ | .tableRow _ _ _ _ => true
  | .rxHunt _ | .rxHunt55 _ | .rxLen _ | .rxOpc _ | .rxPay _ | .rxCrclo _ | .rxCrchi _ => true
  | .rxByte _ | .rxChunk _ => true
  | _ => false

/-- `k` steps, stopping where one stops. -/
def run : Nat → State → Host.Outcome State Fault Refusal
  | 0, s => .next s
  | k + 1, s => andThen (step s) (run k)

/-- An input with bytes after it, where it is made of received bytes. -/
def appendBytes (inp : Input) (after : List Byte) : Input :=
  match inp with
  | .chunk bytes => .chunk (bytes ++ after)
  | .frame bytes => .frame (bytes ++ after)
  | _ => inp

/-- EXTRACT_FRAMES called on chunk after chunk, the leftover carried over (41_reassembler.md R162). -/
def extractChunks : List Byte → List (List Byte) → List (List Byte)
  | _, [] => []
  | rest, c :: cs => (extractFrames (rest ++ c)).1 ++ extractChunks (extractFrames (rest ++ c)).2 cs

/-- The table printed in 40_crc.md R136, in four pieces. -/
def crcTable0 : List Word := [
  0x0000, 0x8005, 0x800F, 0x000A, 0x801B, 0x001E, 0x0014, 0x8011,
  0x8033, 0x0036, 0x003C, 0x8039, 0x0028, 0x802D, 0x8027, 0x0022,
  0x8063, 0x0066, 0x006C, 0x8069, 0x0078, 0x807D, 0x8077, 0x0072,
  0x0050, 0x8055, 0x805F, 0x005A, 0x804B, 0x004E, 0x0044, 0x8041,
  0x80C3, 0x00C6, 0x00CC, 0x80C9, 0x00D8, 0x80DD, 0x80D7, 0x00D2,
  0x00F0, 0x80F5, 0x80FF, 0x00FA, 0x80EB, 0x00EE, 0x00E4, 0x80E1,
  0x00A0, 0x80A5, 0x80AF, 0x00AA, 0x80BB, 0x00BE, 0x00B4, 0x80B1,
  0x8093, 0x0096, 0x009C, 0x8099, 0x0088, 0x808D, 0x8087, 0x0082]

def crcTable1 : List Word := [
  0x8183, 0x0186, 0x018C, 0x8189, 0x0198, 0x819D, 0x8197, 0x0192,
  0x01B0, 0x81B5, 0x81BF, 0x01BA, 0x81AB, 0x01AE, 0x01A4, 0x81A1,
  0x01E0, 0x81E5, 0x81EF, 0x01EA, 0x81FB, 0x01FE, 0x01F4, 0x81F1,
  0x81D3, 0x01D6, 0x01DC, 0x81D9, 0x01C8, 0x81CD, 0x81C7, 0x01C2,
  0x0140, 0x8145, 0x814F, 0x014A, 0x815B, 0x015E, 0x0154, 0x8151,
  0x8173, 0x0176, 0x017C, 0x8179, 0x0168, 0x816D, 0x8167, 0x0162,
  0x8123, 0x0126, 0x012C, 0x8129, 0x0138, 0x813D, 0x8137, 0x0132,
  0x0110, 0x8115, 0x811F, 0x011A, 0x810B, 0x010E, 0x0104, 0x8101]

def crcTable2 : List Word := [
  0x8303, 0x0306, 0x030C, 0x8309, 0x0318, 0x831D, 0x8317, 0x0312,
  0x0330, 0x8335, 0x833F, 0x033A, 0x832B, 0x032E, 0x0324, 0x8321,
  0x0360, 0x8365, 0x836F, 0x036A, 0x837B, 0x037E, 0x0374, 0x8371,
  0x8353, 0x0356, 0x035C, 0x8359, 0x0348, 0x834D, 0x8347, 0x0342,
  0x03C0, 0x83C5, 0x83CF, 0x03CA, 0x83DB, 0x03DE, 0x03D4, 0x83D1,
  0x83F3, 0x03F6, 0x03FC, 0x83F9, 0x03E8, 0x83ED, 0x83E7, 0x03E2,
  0x83A3, 0x03A6, 0x03AC, 0x83A9, 0x03B8, 0x83BD, 0x83B7, 0x03B2,
  0x0390, 0x8395, 0x839F, 0x039A, 0x838B, 0x038E, 0x0384, 0x8381]

def crcTable3 : List Word := [
  0x0280, 0x8285, 0x828F, 0x028A, 0x829B, 0x029E, 0x0294, 0x8291,
  0x82B3, 0x02B6, 0x02BC, 0x82B9, 0x02A8, 0x82AD, 0x82A7, 0x02A2,
  0x82E3, 0x02E6, 0x02EC, 0x82E9, 0x02F8, 0x82FD, 0x82F7, 0x02F2,
  0x02D0, 0x82D5, 0x82DF, 0x02DA, 0x82CB, 0x02CE, 0x02C4, 0x82C1,
  0x8243, 0x0246, 0x024C, 0x8249, 0x0258, 0x825D, 0x8257, 0x0252,
  0x0270, 0x8275, 0x827F, 0x027A, 0x826B, 0x026E, 0x0264, 0x8261,
  0x0220, 0x8225, 0x822F, 0x022A, 0x823B, 0x023E, 0x0234, 0x8231,
  0x8213, 0x0216, 0x021C, 0x8219, 0x0208, 0x820D, 0x8207, 0x0202]

/-- The table printed in 40_crc.md R136. -/
def crcTable : List Word := crcTable0 ++ crcTable1 ++ crcTable2 ++ crcTable3

end Sys2Proof.Machine
end

