-- ==== Sys2Proof/Certificates/Slice0/Obligations.lean ====
section
/-! DEFINITION. The statements for the provers. Each docstring names the rule or section of spec/ it formalises;
"the spec marks" means the rule carries a [derived] or [decision] mark of its own. -/

open Sys2Proof Sys2Proof.Machine

/-- 40_crc.md R132: CRC16 is the loop over the bytes from 0xFFFF, total, first byte first, no reversal and no final
XOR, with its corner cases and its example. -/
def Obligations.Crc16RunsOverTheBytes : Prop :=
  (∀ (s : State) (bytes : List Byte),
    exec (.crc16 bytes) s =
      .next { s with returns := s.returns ++ [.crc (bytes.foldl crcByte 0xFFFF)] }) ∧
  crc16 [] = 0xFFFF ∧ crc16 [0x00, 0x01] ≠ crc16 [0x01] ∧ crc16 [0x00, 0x01] ≠ crc16 [0x01, 0x00] ∧
  crc16 [0x01, 0x01, 0x22] = 0x88DB

/-- 40_crc.md section 1: CRC_INIT answers 0xFFFF; CRC_BYTE answers eight shift steps of polynomial 0x8005 on the
register with the byte entered at bits 15 to 8 (the spec marks R131 as derived). -/
def Obligations.CrcInitAndCrcByteAnswer : Prop :=
  ∀ (s : State) (r : Word) (b : Byte),
    exec .crcInit s = .next { s with returns := s.returns ++ [.crc 0xFFFF] } ∧
    exec (.crcByte r b) s = .next { s with returns := s.returns ++
      [.crc ((fun x : Word => if x.getLsbD 15 then (x <<< 1) ^^^ 0x8005 else x <<< 1)^[8]
        (r ^^^ (b.setWidth 16 <<< 8)))] } ∧
    crcByte 0x0000 0x00 = 0x0000 ∧ crcByte 0xFFFF 0xFF = 0xFF00 ∧
    crcByte 0xFFFF 0x00 = 0xFD02 ∧ crcByte 0xFFFF 0x01 = 0x7D07

/-- 40_crc.md section 3, the byte-table form: the printed table holds CRC_BYTE(0, i), and one byte is one lookup
(the spec marks R136 as derived). -/
def Obligations.CrcByteIsOneTableLookup : Prop :=
  crcTable.length = 256 ∧
  ∀ (r : Word) (b : Byte),
    crcTable[b.toNat]? = some (crcByte 0 b) ∧
    ∃ v, crcTable[(highByte r ^^^ b).toNat]? = some v ∧ crcByte r b = (r <<< 8) ^^^ v

/-- 40_crc.md section 3: linearity, and composition over a concatenation (the spec marks R137 as derived). -/
def Obligations.CrcIsLinearAndComposes : Prop :=
  (∀ (r : Word) (b : Byte), crcByte r b = crcByte r 0 ^^^ crcByte 0 b) ∧
  (∀ (r r' : Word) (b b' : Byte), crcByte (r ^^^ r') (b ^^^ b') = crcByte r b ^^^ crcByte r' b') ∧
  ∀ a b : List Byte, crc16 (a ++ b) = b.foldl crcByte (crc16 a)

/-- 40_crc.md section 3 and hazard H6: the CRC appended high byte first leaves zero; appended in wire order it
leaves no constant (the spec marks R138 as derived). -/
def Obligations.CrcResidueIsZeroHighByteFirst : Prop :=
  (∀ bytes : List Byte, crc16 (bytes ++ [highByte (crc16 bytes), lowByte (crc16 bytes)]) = 0) ∧
  crc16 [0x01, 0x01, 0x22, 0xDB, 0x88] = 0x6BEF ∧
  ∃ a b : List Byte,
    crc16 (a ++ [lowByte (crc16 a), highByte (crc16 a)]) ≠
      crc16 (b ++ [lowByte (crc16 b), highByte (crc16 b)])

/-- 70_reset_and_hazards.md section 1 and 10_state.md section 5: RESET puts every element at its reset value and
emits nothing (the spec marks R36 and R300 as its own decision D8; that `fb` lists nothing is log 5, that the
queue and the outputs stay is log 3). -/
def Obligations.ResetLeavesTheResetValues : Prop :=
  (∀ s : State, exec .reset s =
    .next { State.reset with inbox := s.inbox, out := s.out, returns := s.returns, tx := s.tx }) ∧
  State.reset.ph = .hunt ∧ State.reset.crc = 0xFFFF ∧ State.reset.len = 0 ∧ State.reset.cnt = 0 ∧
  State.reset.fbn = 0 ∧ State.reset.crcLo = 0 ∧ State.reset.status = 0 ∧ State.reset.obs = [] ∧
  State.reset.pending = []

/-- 41_reassembler.md R151: the step of phase HUNT (the flag by its name SKIP; its bit number is in Hunt55ByteStep). -/
def Obligations.HuntByteStep : Prop :=
  ∀ (s : State) (b : Byte), s.ph = .hunt →
    exec (.rxHunt b) s = .next
      (if b = 0xAA then { s with ph := .hunt55 }
       else { s with out := s.out ++ [.logSkip b], status := s.status ||| skipFlag })

/-- 41_reassembler.md section 2, phase HUNT55 (the spec marks the 0xAA arm of R152 as derived). That SKIP is bit 3 of
STATUS, the value 8, is 10_state.md section 2, R27, which the spec marks as decision D6 (log 15). -/
def Obligations.Hunt55ByteStep : Prop :=
  ∀ (s : State) (b : Byte), s.ph = .hunt55 →
    exec (.rxHunt55 b) s = .next
      (if b = 0x55 then { s with ph := .len, crc := 0xFFFF, fbn := 0 }
       else if b = 0xAA then { s with out := s.out ++ [.logSkip 0xAA], status := s.status ||| 8 }
       else { s with
        out := s.out ++ [.logSkip 0xAA, .logSkip b], status := s.status ||| 8, ph := .hunt })

/-- 41_reassembler.md R153, R154 and R156: the steps of phases LEN (the length decoder), OPC (with LENGTH 0 the
payload phase is skipped) and CRCLO (`crc` is not advanced). -/
def Obligations.HeaderAndTrailerLowByteSteps : Prop :=
  ∀ (s : State) (b : Byte),
    (s.ph = .len → exec (.rxLen b) s = .next { s with
      len := b, cnt := 0, fb := Memory.write s.fb 0 b, fbn := 1, crc := crcByte s.crc b, ph := .opc }) ∧
    (s.ph = .opc → exec (.rxOpc b) s = .next { s with
      fb := Memory.write s.fb 1 b, fbn := 2, crc := crcByte s.crc b,
      ph := if s.len = 0 then .crclo else .pay }) ∧
    (s.ph = .crclo → exec (.rxCrclo b) s = .next { s with crcLo := b, ph := .crchi })

/-- 41_reassembler.md R155: the step of phase PAY, for every `cnt` below `len`. -/
def Obligations.PayloadByteStep : Prop :=
  ∀ (s : State) (b : Byte), s.ph = .pay → s.cnt.toNat < s.len.toNat →
    exec (.rxPay b) s = .next { s with
      fb := Memory.write s.fb (2 + s.cnt.toNat) b, fbn := s.fbn + 1, crc := crcByte s.crc b,
      cnt := s.cnt + 1,
      ph := if s.cnt.toNat + 1 = s.len.toNat then .crclo else .pay }

/-- 41_reassembler.md section 2 and 42_validator.md sections 2 and 3: the step of phase CRCHI (R157, R183 to R185). The trailer is assembled and compared; on a match the
payload-frame is emitted and dispatched, else the whole candidate is dropped; both cases go back to HUNT. The
drop's event and flag are R184's, which the spec marks as decision D6 (log 15); the flag stands by its name CRC_ERR, its
bit number is in FrameWithBadCrcIsDropped. -/
def Obligations.TrailerHighByteStep : Prop :=
  ∀ (s : State) (b : Byte) (pf : List Byte), s.ph = .crchi → s.fbn.toNat ≤ 257 →
    Memory.readN s.fb 0 s.fbn.toNat = some pf →
    exec (.rxCrchi b) s = .next
      { (if s.crc = (b.setWidth 16 <<< 8) ||| s.crcLo.setWidth 16 then
          dispatchMsg pf { s with out := s.out ++ [.frame pf] }
        else
          { s with
            out := s.out ++ [.logCrcDrop (0xAA :: 0x55 :: (pf ++ [s.crcLo, b]))],
            status := s.status ||| crcErrFlag }) with ph := .hunt }

/-- 20_memory.md section 1 and log 5, the model's choice: a store above address 256, a read above it and a read of
a byte never written stop with a fault. No run from reset meets one (StepNeverFaultsUnderTheInvariant). -/
def Obligations.FrameBufferAccessFaults : Prop :=
  (∀ (s : State) (b : Byte), s.ph = .pay → s.cnt = 255 →
    exec (.rxPay b) s = .fault (.fbOutOfRange 257)) ∧
  (∀ (s : State) (b : Byte), s.ph = .crchi → 257 < s.fbn.toNat →
    exec (.rxCrchi b) s = .fault (.fbOutOfRange (s.fbn.toNat - 1))) ∧
  ∀ (s : State) (b : Byte), s.ph = .crchi → s.fbn.toNat ≤ 257 →
    (∃ a < s.fbn.toNat, Memory.read s.fb a = none) → exec (.rxCrchi b) s = .fault .fbUnwritten

/-- 41_reassembler.md section 2 (R158: "Exactly one applies"; log 9, the model's choice of a refusal): a row
RX_BYTE.<phase> has no meaning in another phase. -/
def Obligations.PhaseRowsRefuseOtherPhases : Prop :=
  ∀ (s : State) (q : Phase) (b : Byte), s.ph ≠ q →
    exec (phaseRow q b) s = .refused .phaseNotSelected

/-- 41_reassembler.md section 2: RX_BYTE is the rule its phase selects; it always has a step, and the phase follows
the transition table (the spec marks R158 and R159 as derived). -/
def Obligations.RxByteFollowsTheTransitionTable : Prop :=
  (∀ (s : State) (b : Byte), exec (.rxByte b) s = exec (phaseRow s.ph b) s) ∧
  ∀ (s : State) (b : Byte), Inv s →
    ∃ t, exec (.rxByte b) s = .next t ∧ t.ph = nextPhase s b

/-- 41_reassembler.md section 2: RX_CHUNK is RX_BYTE of its bytes in order, nothing for an empty chunk, and always
has a step; each FRAME row, called as one operation, is RX_CHUNK of its frame's bytes, in every phase: that such a
call runs the byte steps of its bytes is log 2, the model's choice (the spec marks R160 as decision D21). -/
def Obligations.RxChunkIsItsBytesInOrder : Prop :=
  (∀ s : State, exec (.rxChunk []) s = .next s) ∧
  (∀ (s t : State) (b : Byte) (c : List Byte), exec (.rxByte b) s = .next t →
    exec (.rxChunk (b :: c)) s = exec (.rxChunk c) t) ∧
  (∀ (s : State) (op : Byte) (payload : List Byte) (crcl crch : Byte),
    exec (.pingReq payload crcl crch) s = exec (.rxChunk (frame 0x01 payload crcl crch)) s ∧
    exec (.deviceInitEvt payload crcl crch) s = exec (.rxChunk (frame 0x03 payload crcl crch)) s ∧
    exec (.zeroArgReq09 payload crcl crch) s = exec (.rxChunk (frame 0x09 payload crcl crch)) s ∧
    exec (.generic payload crcl crch) s = exec (.rxChunk (frame 0xFF payload crcl crch)) s ∧
    exec (.unassigned op payload crcl crch) s = exec (.rxChunk (frame op payload crcl crch)) s ∧
    exec (.tableRow op payload crcl crch) s = exec (.rxChunk (frame op payload crcl crch)) s ∧
    frame op payload crcl crch =
      0xAA :: 0x55 :: BitVec.ofNat 8 payload.length :: op :: (payload ++ [crcl, crch])) ∧
  ∀ (s : State) (c : List Byte), Inv s → ∃ t, exec (.rxChunk c) s = .next t ∧ Inv t

/-- 41_reassembler.md section 3 and hazard H1: once LENGTH is taken, the block is silent until LENGTH + 3 further
bytes have come, whatever they are, and with the last of them hunts again (the spec marks R163 and R312 as decision D5). -/
def Obligations.CandidateTakesExactlyItsLength : Prop :=
  (∀ (s : State) (c : List Byte), Inv s → s.ph = .opc → c.length < s.len.toNat + 3 →
    ∃ t, exec (.rxChunk c) s = .next t ∧ t.out = s.out ∧ t.status = s.status ∧
      t.ph ≠ .hunt ∧ t.ph ≠ .hunt55 ∧ t.pending = s.pending ++ c) ∧
  ∀ (s : State) (c : List Byte), Inv s → s.ph = .opc → c.length = s.len.toNat + 3 →
    ∃ t, exec (.rxChunk c) s = .next t ∧ t.ph = .hunt

/-- 43_mux.md section 2, PING_REQ: from phase HUNT a frame with its CRC is delivered with its payload as `data`, for
every payload of 0 to 255 bytes, to every observer in order (section 4, R225; every observer returns: decision D18,
log 16). The spec marks the missing size limit of R210 as decision D9. -/
def Obligations.PingFrameIsDelivered : Prop :=
  ∀ (s : State) (payload : List Byte) (crcl crch : Byte), s.ph = .hunt → payload.length ≤ 255 →
    u16le crcl crch = crc16 (BitVec.ofNat 8 payload.length :: 0x01 :: payload) →
    ∃ t, exec (.pingReq payload crcl crch) s = .next t ∧ ReceivedFrame s t 0x01 payload crcl ∧
      t.status = s.status ∧
      t.out = s.out ++ .frame (msg 0x01 payload) ::
        s.obs.map (fun o => .deliver o ⟨0x01, "PING_REQ", .blob payload⟩)

/-- 43_mux.md R211, on the stream path: a DEVICE_INIT_EVT frame with its CRC is delivered with its identifiers when
LENGTH is even, to every observer in order (every observer returns: decision D18, log 16), and dropped with
LengthMismatch when it is odd (flag and event of the drop: decision D6, log 15). -/
def Obligations.DeviceInitFrameIsDeliveredOrDropped : Prop :=
  (∀ (s : State) (ids : List Word) (crcl crch : Byte), s.ph = .hunt → ids.length ≤ 127 →
    u16le crcl crch = crc16 (msg 0x03 (ids.flatMap fun v => [lowByte v, highByte v])) →
    ∃ t, exec (.deviceInitEvt (ids.flatMap fun v => [lowByte v, highByte v]) crcl crch) s = .next t ∧
      ReceivedFrame s t 0x03 (ids.flatMap fun v => [lowByte v, highByte v]) crcl ∧
      t.status = s.status ∧
      t.out = s.out ++ .frame (msg 0x03 (ids.flatMap fun v => [lowByte v, highByte v])) ::
        s.obs.map (fun o => .deliver o ⟨0x03, "DEVICE_INIT_EVT", .list16 ids⟩)) ∧
  ∀ (s : State) (payload : List Byte) (crcl crch : Byte), s.ph = .hunt → payload.length ≤ 255 →
    payload.length % 2 = 1 → u16le crcl crch = crc16 (msg 0x03 payload) →
    ∃ t, exec (.deviceInitEvt payload crcl crch) s = .next t ∧ ReceivedFrame s t 0x03 payload crcl ∧
      t.status = s.status ||| 4 ∧
      t.out = s.out ++ [.frame (msg 0x03 payload), .logDecodeDrop 3 (msg 0x03 payload)]

/-- 43_mux.md R212, on the stream path: a ZERO_ARG_REQ_09 frame with its CRC is delivered when LENGTH is 0, to
every observer in order (every observer returns: decision D18, log 16), and dropped with LengthMismatch otherwise
(flag and event of the drop: decision D6, log 15). -/
def Obligations.ZeroArgFrameIsDeliveredOrDropped : Prop :=
  ∀ (s : State) (payload : List Byte) (crcl crch : Byte), s.ph = .hunt → payload.length ≤ 255 →
    u16le crcl crch = crc16 (msg 0x09 payload) →
    ∃ t, exec (.zeroArgReq09 payload crcl crch) s = .next t ∧ ReceivedFrame s t 0x09 payload crcl ∧
      if payload = [] then
        t.status = s.status ∧
        t.out = s.out ++ .frame (msg 0x09 payload) ::
          s.obs.map (fun o => .deliver o ⟨0x09, "ZERO_ARG_REQ_09", .empty⟩)
      else
        t.status = s.status ||| 4 ∧
        t.out = s.out ++ [.frame (msg 0x09 payload), .logDecodeDrop 3 (msg 0x09 payload)]

/-- 43_mux.md section 2 and hazard H9: a received GENERIC frame that passes the CRC is dropped with OpcodeMismatch
(the spec marks R213 as decision D10; flag 2 and event of the drop are R203's, section 1, by decisions D6 and D7,
log 15). -/
def Obligations.GenericFrameIsDropped : Prop :=
  ∀ (s : State) (payload : List Byte) (crcl crch : Byte), s.ph = .hunt → payload.length ≤ 255 →
    u16le crcl crch = crc16 (msg 0xFF payload) →
    ∃ t, exec (.generic payload crcl crch) s = .next t ∧ ReceivedFrame s t 0xFF payload crcl ∧
      t.status = s.status ||| 2 ∧
      t.out = s.out ++ [.frame (msg 0xFF payload), .logDecodeDrop 2 (msg 0xFF payload)]

/-- 43_mux.md section 2: a frame of any opcode, received as UNASSIGNED or as TABLE_ROW, is dropped with
OpcodeMismatch where OPCODE_TABLE has no row, and else goes by its row's shape (the table is the parameter of decision
D9, log 7). Delivery supposes that every observer returns (R225, section 4, decision D18, log 16); flag and event of
the drops are R203's and R204's, section 1, by decision D6, log 15. -/
def Obligations.UnassignedAndTableRowFrames : Prop :=
  ∀ (s : State) (op : Byte) (payload : List Byte) (crcl crch : Byte), s.ph = .hunt →
    payload.length ≤ 255 → u16le crcl crch = crc16 (msg op payload) →
    ∃ t, exec (.unassigned op payload crcl crch) s = .next t ∧
      exec (.tableRow op payload crcl crch) s = .next t ∧ ReceivedFrame s t op payload crcl ∧
      match lookup Config.params op with
      | none =>
        t.status = s.status ||| 2 ∧
        t.out = s.out ++ [.frame (msg op payload), .logDecodeDrop 2 (msg op payload)]
      | some e =>
        match parseFields Config.params e.shape payload with
        | some fields =>
          t.status = s.status ∧
          t.out = s.out ++ .frame (msg op payload) ::
            s.obs.map (fun o => .deliver o ⟨op, e.name, fields⟩)
        | none =>
          t.status = s.status ||| 4 ∧
          t.out = s.out ++ [.frame (msg op payload), .logDecodeDrop 3 (msg op payload)]

/-- 42_validator.md section 3 and 60_exceptions.md section 3: a frame of any row whose trailer is not its CRC is
dropped whole; it reports the CRC only, whatever its opcode and length, and nothing of it is delivered (flag and
event of R184: decision D6, log 15). -/
def Obligations.FrameWithBadCrcIsDropped : Prop :=
  ∀ (i : Instr) (s : State) (op : Byte) (payload : List Byte) (crcl crch : Byte),
    encode i = .frame (frame op payload crcl crch) → s.ph = .hunt → payload.length ≤ 255 →
    u16le crcl crch ≠ crc16 (msg op payload) →
    ∃ t, exec i s = .next t ∧ ReceivedFrame s t op payload crcl ∧ t.status = s.status ||| 1 ∧
      t.out = s.out ++ [.logCrcDrop (frame op payload crcl crch)]

/-- 41_reassembler.md section 1: EXTRACT_FRAMES round by round, and its call (the spec marks the leftover of a
buffer without a preamble as decision D2 and the garbage before an incomplete frame as D3). -/
def Obligations.ExtractFramesFollowsItsLoop : Prop :=
  (∀ (s : State) (buf : List Byte), exec (.extractFrames buf) s = .next { s with
    returns := s.returns ++ [.frames (extractFrames buf).1 (extractFrames buf).2] }) ∧
  (∀ buf : List Byte, (∀ p, ¬ FirstPreamble buf p) → extractFrames buf = ([], buf)) ∧
  (∀ (buf : List Byte) (p : Nat), FirstPreamble buf p →
    ((buf.drop p).length < 6 ∨ (buf.drop p).length < 6 + (buf.getD (p + 2) 0).toNat) →
    extractFrames buf = ([], buf.drop p)) ∧
  ∀ (buf : List Byte) (p : Nat) (l : Nat), FirstPreamble buf p → l = (buf.getD (p + 2) 0).toNat →
    6 + l ≤ (buf.drop p).length →
    extractFrames buf =
      if validate ((buf.drop p).take (6 + l)) = .isMatch then
        (slice (buf.drop p) 2 (4 + l) :: (extractFrames (buf.drop (p + 6 + l))).1,
          (extractFrames (buf.drop (p + 6 + l))).2)
      else extractFrames (buf.drop (p + 6 + l))

/-- 41_reassembler.md section 3, idempotence: a leftover holds no complete candidate and comes back unchanged (the
spec marks R164 as derived). -/
def Obligations.ExtractFramesLeftoverIsStable : Prop :=
  ∀ buf : List Byte,
    extractFrames (extractFrames buf).2 = ([], (extractFrames buf).2)

/-- 41_reassembler.md section 3, chunk invariance: where the stream is cut makes no difference to the frames, for
the function with its leftover carried over and for the machine (the spec marks R162 as derived). -/
def Obligations.ChunkingMakesNoDifference : Prop :=
  (∀ chunks : List (List Byte), extractChunks [] chunks = (extractFrames chunks.flatten).1) ∧
  ∀ (s : State) (chunks : List (List Byte)),
    chunks.foldl (fun o c => andThen o (exec (.rxChunk c))) (.next s) = exec (.rxChunk chunks.flatten) s

/-- 41_reassembler.md section 3, equivalence: from phase HUNT, and so from reset, the machine fed any bytes emits
exactly the frames of EXTRACT_FRAMES and holds the minimal remainder of its leftover (the spec marks R161 and R32
as derived). -/
def Obligations.MachineEmitsTheFramesOfExtractFrames : Prop :=
  ∀ (s : State) (bytes : List Byte), s.ph = .hunt →
    ∃ t, exec (.rxChunk bytes) s = .next t ∧
      framesOf t.out = framesOf s.out ++ (extractFrames bytes).1 ∧
      t.pending = minimalRemainder (extractFrames bytes).2

/-- 42_validator.md section 3, the safety property: every FRAME emitted is a whole MSG that stands in the stream
between a preamble and its own CRC (the spec marks R187 as derived). -/
def Obligations.EmittedFramesStandInTheStream : Prop :=
  ∀ (s : State) (bytes : List Byte), s.ph = .hunt →
    ∃ t evs, exec (.rxChunk bytes) s = .next t ∧ t.out = s.out ++ evs ∧
      ∀ pf ∈ framesOf evs, isMsg pf = true ∧
        ∃ before after, bytes = before ++
          (0xAA :: 0x55 :: (pf ++ [lowByte (crc16 pf), highByte (crc16 pf)])) ++ after

/-- 10_state.md section 6: every received byte is accounted for exactly once, in stream order: skipped, in a
delivered or dropped candidate, or still pending (the spec marks the events of R37 as decision D6). -/
def Obligations.EveryByteIsAccountedFor : Prop :=
  ∀ (s : State) (bytes : List Byte), Inv s →
    ∃ t evs, exec (.rxChunk bytes) s = .next t ∧ t.out = s.out ++ evs ∧
      s.pending ++ bytes = evs.flatMap OutEvent.accounts ++ t.pending

/-- 10_state.md sections 4 and 5: the invariant holds at reset (the spec marks R33 as derived). -/
def Obligations.InvariantHoldsAtReset : Prop := Inv State.reset

/-- 10_state.md section 4: every step keeps the invariant: the memory's form, the ranges of `cnt` and `fbn`, the
observers without duplicates and within the capacity, the conditions of each phase (the spec marks R33 as derived;
that the memory is a canonical list is log 5). -/
def Obligations.StepKeepsTheInvariant : Prop :=
  ∀ s t : State, Inv s → step s = .next t → Inv t

/-- 00_scope.md section 7 (R16: the block is never stuck by its own rules): under the invariant no step faults, and
a step that is no refusal of an input answers a next state. -/
def Obligations.StepNeverFaultsUnderTheInvariant : Prop :=
  ∀ s : State, Inv s →
    (∀ f, step s ≠ .fault f) ∧
    ∀ (b : Byte) (bs : List Byte) (rest : List Input), s.inbox = .chunk (b :: bs) :: rest →
      ∃ t, step s = .next t

/-- 10_state.md section 2: the flags of STATUS are sticky; only RESET clears one (the spec marks R27 as decision
D6). -/
def Obligations.StatusFlagsAreSticky : Prop :=
  ∀ (i : Instr) (s t : State), i ≠ .reset → exec i s = .next t →
    s.status &&& t.status = s.status

/-- 10_state.md section 2: the observer list changes by RESET, REGISTER_OBSERVER and UNREGISTER_OBSERVER only (the
spec marks R28 as decision D13). -/
def Obligations.ObserversChangeOnlyByTheirOperations : Prop :=
  ∀ (i : Instr) (s t : State), i ≠ .reset → (∀ o, i ≠ .registerObserver o) →
    (∀ o, i ≠ .unregisterObserver o) → exec i s = .next t → t.obs = s.obs

/-- 10_state.md section 6 and 20_memory.md section 4: what was emitted, answered or handed over stays and keeps its
order; no operation takes from the queue (logs 1 and 3, the model's fields). -/
def Obligations.OutputsOnlyGrow : Prop :=
  ∀ (i : Instr) (s t : State), exec i s = .next t →
    (∃ evs, t.out = s.out ++ evs) ∧ (∃ rs, t.returns = s.returns ++ rs) ∧
    (∃ cs, t.tx = s.tx ++ cs) ∧ t.inbox = s.inbox

/-- 43_mux.md section 1: DISPATCH delivers the decoded message to every observer in registration order, or drops the
frame with the flag and the event of its error (the spec marks R200 as decision D14; flag and event: decision D6, log
15). Every byte string is dispatched, a MSG or not (log 19), and every observer returns (decision D18, log 16). -/
def Obligations.DispatchDeliversOrDrops : Prop :=
  ∀ (s : State) (pf : List Byte),
    exec (.dispatch pf) s = .next (match decodeMsg Config.params pf with
      | .ok m => { s with out := s.out ++ s.obs.map (fun o => .deliver o m) }
      | .error .opcodeMismatch =>
        { s with status := s.status ||| 2, out := s.out ++ [.logDecodeDrop 2 pf] }
      | .error _ => { s with status := s.status ||| 4, out := s.out ++ [.logDecodeDrop 3 pf] })

/-- 43_mux.md section 1: DECODE checks header, opcode, size and shape in this order, for every OPCODE_TABLE (the spec
marks the size checks of R201 as decision D15). -/
def Obligations.DecodeChecksInOrder : Prop :=
  ∀ p : Params,
    (∀ pf : List Byte, pf.length < 2 → decodeMsg p pf = .error .lengthMismatch) ∧
    ∀ (l op : Byte) (payload : List Byte),
      decodeMsg p (l :: op :: payload) =
        match lookup p op with
        | none => .error .opcodeMismatch
        | some e =>
          if payload.length ≠ l.toNat then .error .lengthMismatch
          else match parseFields p e.shape payload with
            | some fields => .ok ⟨op, e.name, fields⟩
            | none => .error .lengthMismatch

/-- 30_encoding.md section 3: the partition of the 256 opcodes, for every OPCODE_TABLE (the spec marks R107 as
decisions D9, D10, D28). -/
def Obligations.OpcodePartition : Prop :=
  ∀ (p : Params) (op : Byte),
    lookup p 0x01 = some ⟨"PING_REQ", .request, .blob⟩ ∧
    lookup p 0x03 = some ⟨"DEVICE_INIT_EVT", .event, .list16⟩ ∧
    lookup p 0x09 = some ⟨"ZERO_ARG_REQ_09", .request, .zero⟩ ∧
    (op = 0x00 ∨ 0x8D ≤ op.toNat → lookup p op = none) ∧
    (op ≠ 0x00 → op.toNat ≤ 0x8C → op ≠ 0x01 → op ≠ 0x03 → op ≠ 0x09 → lookup p op = p.table op)

/-- 30_encoding.md sections 2 and 4 and 44_tx_framer.md: a payload is accepted with given fields exactly when those
fields are a value of the shape and the payload is their encoding (the spec marks R112 and R246 as derived; that a
NESTED value's sub-length field agrees with its blob is R112's condition, log 12). -/
def Obligations.ShapesAcceptExactlyTheirEncodings : Prop :=
  ∀ (p : Params) (shape : Shape) (payload : List Byte) (fields : Fields),
    parseFields p shape payload = some fields ↔
      encodeFields p shape fields = some payload ∧ SubLengthAgrees shape fields

/-- 30_encoding.md section 2 and 44_tx_framer.md, the bytes of each shape: ZERO, BLOB, FIXED(n), where a value
of another size is none of the variant (log 11); a LIST16 has each identifier low byte first, and an odd number of
bytes is no list (R103); an MDLIST has each identifier low byte first and 10 `config` bytes exactly with the reserved identifier (R104); a NESTED payload has its
sub-length in 1 byte, or in 2 bytes low byte first, at offset o (R108). Written with the blob's length and read only
with it (the spec marks R104 and R108 as decisions D11, D12; log 12). -/
def Obligations.ShapesHaveTheirBytes : Prop :=
  ∀ p : Params,
    (∀ data : List Byte, encodeFields p .zero .empty = some [] ∧
      encodeFields p .blob (.blob data) = some data ∧
      ∀ n : Nat, encodeFields p (.fixed n) (.fixed data) = if data.length = n then some data else none) ∧
    (∀ ids : List Word,
      encodeFields p .list16 (.list16 ids) =
        some (ids.flatMap fun v => [v.extractLsb' 0 8, v.extractLsb' 8 8]) ∧
      parseFields p .list16 (ids.flatMap fun v => [v.extractLsb' 0 8, v.extractLsb' 8 8]) =
        some (.list16 ids)) ∧
    (∀ payload : List Byte, payload.length % 2 = 1 → parseFields p .list16 payload = none) ∧
    (∀ descs : List ModelDesc,
      ((∀ d ∈ descs, d.config.length = if d.modelId = p.sensorSetupModelId then 10 else 0) →
        encodeFields p .mdlist (.mdlist descs) = some (descs.flatMap fun d =>
          d.modelId.extractLsb' 0 8 :: d.modelId.extractLsb' 8 8 :: d.config)) ∧
      ((∃ d ∈ descs, d.config.length ≠ if d.modelId = p.sensorSetupModelId then 10 else 0) →
        encodeFields p .mdlist (.mdlist descs) = none)) ∧
    (∀ (size : NestedSize) (front back blob : List Byte) (x : Byte), size.w = .one →
      front.length = size.o → front.length + 1 + back.length = size.f →
      encodeFields p (.nested size) (.nested (front ++ x :: back) blob) =
        some (front ++ BitVec.ofNat 8 blob.length :: back ++ blob) ∧
      parseFields p (.nested size) (front ++ x :: back ++ blob) =
        if x.toNat = blob.length then some (.nested (front ++ x :: back) blob) else none) ∧
    ∀ (size : NestedSize) (front back blob : List Byte) (x y : Byte), size.w = .two →
      front.length = size.o → front.length + 2 + back.length = size.f →
      encodeFields p (.nested size) (.nested (front ++ x :: y :: back) blob) =
        some (front ++ BitVec.ofNat 8 blob.length :: BitVec.ofNat 8 (blob.length / 256) :: back ++ blob) ∧
      parseFields p (.nested size) (front ++ x :: y :: back ++ blob) =
        if x.toNat + 256 * y.toNat = blob.length then some (.nested (front ++ x :: y :: back) blob) else none

/-- 43_mux.md R211 and R212, for every OPCODE_TABLE: a DEVICE_INIT_EVT message is 2 x len(ids), 0x03 and the
identifiers low byte first, and an odd LENGTH is LengthMismatch; a ZERO_ARG_REQ_09 message is 00 09, and every
other LENGTH is LengthMismatch. -/
def Obligations.FixedRowMessagesAreCoded : Prop :=
  ∀ p : Params,
    (∀ ids : List Word, ids.length ≤ 127 →
      decodeMsg p (BitVec.ofNat 8 (2 * ids.length) :: 0x03 ::
          ids.flatMap fun v => [v.extractLsb' 0 8, v.extractLsb' 8 8]) =
        .ok ⟨0x03, "DEVICE_INIT_EVT", .list16 ids⟩ ∧
      serializeMsg p 0x03 (.list16 ids) = .bytes (BitVec.ofNat 8 (2 * ids.length) :: 0x03 ::
          ids.flatMap fun v => [v.extractLsb' 0 8, v.extractLsb' 8 8])) ∧
    (∀ (l : Byte) (payload : List Byte), payload.length = l.toNat → l.toNat % 2 = 1 →
      decodeMsg p (l :: 0x03 :: payload) = .error .lengthMismatch) ∧
    decodeMsg p [0x06, 0x03, 0x01, 0x10, 0x03, 0x10, 0x08, 0x10] =
      .ok ⟨0x03, "DEVICE_INIT_EVT", .list16 [0x1001, 0x1003, 0x1008]⟩ ∧
    decodeMsg p [0x00, 0x09] = .ok ⟨0x09, "ZERO_ARG_REQ_09", .empty⟩ ∧
    serializeMsg p 0x09 .empty = .bytes [0x00, 0x09] ∧
    (∀ (l : Byte) (payload : List Byte), payload.length = l.toNat → l ≠ 0 →
      decodeMsg p (l :: 0x09 :: payload) = .error .lengthMismatch) ∧
    wrapMsg [0x00, 0x09] = [0xAA, 0x55, 0x00, 0x09, 0x3B, 0x80] ∧
    (∀ (payload : List Byte) (crcl crch : Byte),
      encode (.deviceInitEvt payload crcl crch) = .frame
        (0xAA :: 0x55 :: BitVec.ofNat 8 payload.length :: 0x03 :: (payload ++ [crcl, crch])) ∧
      encode (.zeroArgReq09 payload crcl crch) = .frame
        (0xAA :: 0x55 :: BitVec.ofNat 8 payload.length :: 0x09 :: (payload ++ [crcl, crch])))

/-- 44_tx_framer.md, the round trip: DECODE of what SERIALIZE gives is the message, for every table, opcode and
value of its variant (the spec marks R248 as derived; log 12 for NESTED). -/
def Obligations.SerializeThenDecodeGivesTheMessage : Prop :=
  ∀ (p : Params) (op : Byte) (fields : Fields) (e : Row) (pf : List Byte), op ≠ 0xFF →
    lookup p op = some e → SubLengthAgrees e.shape fields → serializeMsg p op fields = .bytes pf →
    isMsg pf = true ∧ decodeMsg p pf = .ok ⟨op, e.name, fields⟩

/-- 30_encoding.md section 4, the message invariant from the other side: a decoded message serializes back to the
bytes it came from, so LENGTH is its logical length (the spec marks R112 as derived). -/
def Obligations.DecodedMessageSerializesBack : Prop :=
  ∀ (p : Params) (pf : List Byte) (m : Message), decodeMsg p pf = .ok m →
    serializeMsg p m.op m.fields = .bytes pf

/-- 43_mux.md section 3: DESERIALIZE answers the message DECODE gives, or its error, and does nothing else (the
spec marks R220 as decision D15). -/
def Obligations.DeserializeAnswers : Prop :=
  ∀ (s : State) (buf : List Byte),
    (∀ m, decodeMsg Config.params buf = .ok m →
      exec (.deserialize buf) s = .next { s with returns := s.returns ++ [.message m] }) ∧
    ∀ e, decodeMsg Config.params buf = .error e →
      exec (.deserialize buf) s = .next { s with returns := s.returns ++ [.error e] }

/-- 43_mux.md R221: DECODE_AS answers LengthMismatch below two bytes, OpcodeMismatch where the opcode byte is not the
one expected, and else what DECODE gives. -/
def Obligations.DecodeAsChecksTheOpcode : Prop :=
  (∀ (s : State) (x : Byte) (buf : List Byte), buf.length < 2 →
    exec (.decodeAs x buf) s = .next { s with returns := s.returns ++ [.error .lengthMismatch] }) ∧
  (∀ (s : State) (x l op : Byte) (payload : List Byte), op ≠ x →
    exec (.decodeAs x (l :: op :: payload)) s =
      .next { s with returns := s.returns ++ [.error .opcodeMismatch] }) ∧
  ∀ (s : State) (x l : Byte) (payload : List Byte),
    exec (.decodeAs x (l :: x :: payload)) s = .next { s with returns := s.returns ++
      [match decodeMsg Config.params (l :: x :: payload) with
        | .ok m => .message m
        | .error e => .error e] }

/-- 42_validator.md R182 with R181: VALIDATE of a candidate compares the CRC of LENGTH, OPCODE and PAYLOAD with the
trailer read low byte first, all 16 bits. -/
def Obligations.ValidateComparesTheTrailer : Prop :=
  (∀ (s : State) (l op crcl crch : Byte) (payload : List Byte), payload.length = l.toNat →
    exec (.validate (0xAA :: 0x55 :: l :: op :: (payload ++ [crcl, crch]))) s =
      .next { s with returns := s.returns ++
        [.verdict (if crc16 (l :: op :: payload) = (crcl.setWidth 16 ||| (crch.setWidth 16 <<< 8))
          then .isMatch else .isMismatch)] }) ∧
  validate [0xAA, 0x55, 0x01, 0x01, 0x22, 0xDB, 0x88] = .isMatch ∧
  validate [0xAA, 0x55, 0x01, 0x01, 0x22, 0xDB, 0x89] = .isMismatch ∧
  (∀ c rx : Word, check c rx = if c = rx then .isMatch else .isMismatch) ∧
  check 0x88DB 0xDB88 = .isMismatch

/-- 42_validator.md section 1 and 93_implementation_defined.md U16, U17. VALIDATE of bytes that are no candidate
answers, with no other effect: by its pseudocode where the 6 + L bytes it reads from are there, whatever the first two
are and whatever follows (R11), else a verdict that depends on the bytes alone and that nothing fixes (log 25, the
model's free value). WRAP of what is no MSG (log 10), and SERIALIZE and SEND of what is no value of the variant (log
11), are refused. -/
def Obligations.OperandsOutsideTheirDomain : Prop :=
  (∀ (s : State) (b0 b1 l op crcl crch : Byte) (payload after : List Byte), payload.length = l.toNat →
    exec (.validate (b0 :: b1 :: l :: op :: (payload ++ crcl :: crch :: after))) s =
      .next { s with returns := s.returns ++
        [.verdict (if crc16 (l :: op :: payload) = (crcl.setWidth 16 ||| (crch.setWidth 16 <<< 8))
          then .isMatch else .isMismatch)] }) ∧
  (∀ cand : List Byte, cand.length < 6 + (cand.getD 2 0).toNat →
    ∃ v, ∀ s : State, exec (.validate cand) s = .next { s with returns := s.returns ++ [.verdict v] }) ∧
  (∀ (s : State) (pf : List Byte),
    (∀ (l op : Byte) (payload : List Byte), pf = l :: op :: payload → payload.length ≠ l.toNat) →
    exec (.wrap pf) s = .refused .notAMsg) ∧
  ∀ (s : State) (op : Byte) (fields : Fields) (e : Row), encodeRow Config.params op = some e →
    encodeFields Config.params e.shape fields = none →
    exec (.serialize op fields) s = .refused .notAValue ∧
    exec (.send op fields) s = .refused .notAValue

/-- 44_tx_framer.md R241: WRAP of a MSG of 2 to 257 bytes puts the preamble before it and its CRC, low byte first,
behind it: four bytes more. -/
def Obligations.WrapFramesTheMessage : Prop :=
  (∀ (s : State) (l op : Byte) (payload : List Byte), payload.length = l.toNat →
    exec (.wrap (l :: op :: payload)) s = .next { s with returns := s.returns ++
      [.bytes ([0xAA, 0x55] ++ (l :: op :: payload) ++
        [(crc16 (l :: op :: payload)).extractLsb' 0 8, (crc16 (l :: op :: payload)).extractLsb' 8 8])] }) ∧
  (∀ pf : List Byte, (wrapMsg pf).length = pf.length + 4) ∧
  wrapMsg [0x01, 0x01, 0x22] = [0xAA, 0x55, 0x01, 0x01, 0x22, 0xDB, 0x88]

/-- 44_tx_framer.md, SERIALIZE: OpcodeMismatch without a row, LengthMismatch over 255 bytes, else LENGTH, OPCODE and
the encoded fields (the spec marks the error cases of R240 and R247 as decision D16). Opcode 0xFF, GENERIC, has a row here for every table: the data as they
are (R213, decision D10). -/
def Obligations.SerializeAnswers : Prop :=
  (∀ (s : State) (op : Byte) (fields : Fields),
    (encodeRow Config.params op = none →
      exec (.serialize op fields) s = .next { s with returns := s.returns ++ [.error .opcodeMismatch] }) ∧
    ∀ (e : Row) (body : List Byte), encodeRow Config.params op = some e →
      encodeFields Config.params e.shape fields = some body →
      (255 < body.length → exec (.serialize op fields) s =
        .next { s with returns := s.returns ++ [.error .lengthMismatch] }) ∧
      (body.length ≤ 255 → exec (.serialize op fields) s = .next { s with
        returns := s.returns ++ [.bytes (BitVec.ofNat 8 body.length :: op :: body)] })) ∧
  ∀ (s : State) (data : List Byte), data.length ≤ 255 →
    exec (.serialize 0xFF (.blob data)) s = .next { s with
      returns := s.returns ++ [.bytes (BitVec.ofNat 8 data.length :: 0xFF :: data)] }

/-- 44_tx_framer.md, SEND: it hands over WRAP of SERIALIZE as one chunk; where SERIALIZE fails, nothing is handed over
and the error goes to the caller. That a success leaves no result is log 24, the model's choice. -/
def Obligations.SendHandsOverOneFrame : Prop :=
  ∀ (s : State) (op : Byte) (fields : Fields),
    (∀ pf, serializeMsg Config.params op fields = .bytes pf →
      exec (.send op fields) s = .next { s with tx := s.tx ++ [wrapMsg pf] }) ∧
    exec (.send 0x09 .empty) s =
      .next { s with tx := s.tx ++ [[0xAA, 0x55, 0x00, 0x09, 0x3B, 0x80]] } ∧
    ∀ e, serializeMsg Config.params op fields = .error e →
      exec (.send op fields) s = .next { s with returns := s.returns ++ [.error e] }

/-- 43_mux.md section 4: registration appends, keeps a present observer's place, and is refused at the capacity with
nothing changed; removal keeps the order of the others (the spec marks R226 and R227 as decision D13; that the
refusal is a result is log 13). -/
def Obligations.RegisterAndUnregister : Prop :=
  ∀ (s : State) (o : ObserverId),
    exec (.registerObserver o) s = .next
      (if o ∈ s.obs then s
       else if s.obs.length < Config.params.nObs then { s with obs := s.obs ++ [o] }
       else { s with returns := s.returns ++ [.refused] }) ∧
    exec (.unregisterObserver o) s = .next { s with obs := s.obs.filter (fun x => x ≠ o) } ∧
    (o ∉ s.obs → exec (.unregisterObserver o) s = .next s)

/-- 10_state.md section 4, 43_mux.md section 3 and 44_tx_framer.md: a direct call neither reads nor writes any state
of the block; what it answers and hands over is the same in every state (the spec marks R35 and R249 as decision
D27). -/
def Obligations.DirectCallsUseNoState : Prop :=
  ∀ i : Instr, isDirectCall i = true →
    (∃ rs cs, ∀ s : State, exec i s =
      .next { s with returns := s.returns ++ rs, tx := s.tx ++ cs }) ∨
    ∃ r, ∀ s : State, exec i s = .refused r

/-- 20_memory.md section 4, ownership: what receives no byte and is not RESET leaves the receive registers and every
byte of the frame buffer. -/
def Obligations.ReceiveStateIsTheReceiversAlone : Prop :=
  ∀ (i : Instr) (s t : State), isReceive i = false → i ≠ .reset → exec i s = .next t →
    t.crc = s.crc ∧ t.ph = s.ph ∧ t.len = s.len ∧ t.cnt = s.cnt ∧ t.fbn = s.fbn ∧
    t.crcLo = s.crcLo ∧ ∀ a, Memory.read t.fb a = Memory.read s.fb a

/-- 20_memory.md section 1: the frame of the seven phase rows: LEN, OPC and PAY store one byte, at 0, 1 and
2 + `cnt`; the others store none; observers, direct results and chunks stay, and all but CRCHI's dispatch and the
hunt leave the outputs and STATUS (the spec marks R63 as derived). -/
def Obligations.PhaseRowsStoreAtMostOneByte : Prop :=
  ∀ (s t : State) (q : Phase) (b : Byte), exec (phaseRow q b) s = .next t →
    (∀ a, (if q = .len then a ≠ 0 else if q = .opc then a ≠ 1
        else if q = .pay then a ≠ 2 + s.cnt.toNat else True) →
      Memory.read t.fb a = Memory.read s.fb a) ∧
    (q = .len → Memory.read t.fb 0 = some b) ∧ (q = .opc → Memory.read t.fb 1 = some b) ∧
    (q = .pay → Memory.read t.fb (2 + s.cnt.toNat) = some b) ∧
    t.obs = s.obs ∧ t.inbox = s.inbox ∧ t.returns = s.returns ∧ t.tx = s.tx ∧
    (q ≠ .hunt → q ≠ .hunt55 → q ≠ .crchi → t.out = s.out ∧ t.status = s.status) ∧
    (q = .hunt ∨ q = .crclo ∨ q = .crchi → t.crc = s.crc ∧ t.fbn = s.fbn) ∧
    (q ≠ .len → t.len = s.len) ∧ (q ≠ .len → q ≠ .pay → t.cnt = s.cnt) ∧
    (q ≠ .crclo → t.crcLo = s.crcLo)

/-- 44_tx_framer.md, the wire round trip: WRAP of a MSG is extracted as that MSG with nothing left, and fed to the
machine in phase HUNT it emits its FRAME and what DISPATCH of it emits, nothing else, and ends in HUNT (the spec marks
R248 as derived; every observer returns: decision D18, log 16). -/
def Obligations.WrappedMessageIsExtracted : Prop :=
  ∀ pf : List Byte, isMsg pf = true →
    extractFrames (wrapMsg pf) = ([pf], []) ∧
    ∀ s : State, s.ph = .hunt → ∃ t u evs, exec (.rxChunk (wrapMsg pf)) s = .next t ∧ t.ph = .hunt ∧
      exec (.dispatch pf) s = .next u ∧ u.out = s.out ++ evs ∧
      t.out = s.out ++ .frame pf :: evs ∧ t.status = u.status

/-- 44_tx_framer.md and 43_mux.md, loop-back: the chunk SEND hands over, received in phase HUNT, delivers the very
message sent to every observer, in order (rests on R248, which the spec marks as derived; log 12 for NESTED; every
observer returns: decision D18, log 16). -/
def Obligations.SentMessageIsDelivered : Prop :=
  ∀ (s : State) (op : Byte) (fields : Fields) (e : Row) (pf : List Byte), s.ph = .hunt → op ≠ 0xFF →
    lookup Config.params op = some e → SubLengthAgrees e.shape fields →
    serializeMsg Config.params op fields = .bytes pf →
    ∃ u t, exec (.send op fields) s = .next u ∧ u.tx = s.tx ++ [wrapMsg pf] ∧
      exec (.rxChunk (wrapMsg pf)) u = .next t ∧ t.status = s.status ∧
      t.out = s.out ++ .frame pf :: s.obs.map (fun o => .deliver o ⟨op, e.name, fields⟩)

/-- 30_encoding.md sections 1 and 5 and opcode_table.json: decode inverts encode on every well-formed instruction, with
every operand at every value. The EVENT rows have no bit encoding (R118); the form of their inputs is log 1, the
model's choice. -/
def Obligations.DecodeInvertsEncode : Prop :=
  ∀ i : Instr, i.WellFormed → decode (encode i) = .ok (i, [])

/-- 30_encoding.md sections 1 and 5 and opcode_table.json, the other direction: what decodes is well-formed and its
input is its encoding, with the bytes left over behind it. The form of the EVENT rows' inputs is log 1, the model's
choice. -/
def Obligations.DecodedInputIsItsEncoding : Prop :=
  ∀ (inp : Input) (i : Instr) (after : List Byte), decode inp = .ok (i, after) →
    i.WellFormed ∧ inp = appendBytes (encode i) after

/-- opcode_table.json and 30_encoding.md sections 1 and 3: header words and frames written out from the table decode to
their rows. The zero bytes behind a header word are logs 17 and 18, the event's input log 1, the model's choices; a
received chunk decodes to RX_BYTE of its first byte (R13). -/
def Obligations.HeaderWordsDecodeToTheirRows : Prop :=
  decodeTableWord 32 0xAA550001 = some (.pingReq [] 0 0) ∧
  decodeTableWord 32 0xAA550203 = some (.deviceInitEvt [0, 0] 0 0) ∧
  decodeTableWord 32 0xAA550009 = some (.zeroArgReq09 [] 0 0) ∧
  decodeTableWord 32 0xAA5500FF = some (.generic [] 0 0) ∧
  decodeTableWord 32 0xAA550000 = some (.unassigned 0 [] 0 0) ∧
  decodeTableWord 32 0x55AA0001 = none ∧
  decode (.frame [0xAA, 0x55, 0x01, 0x01, 0x22, 0xDB, 0x88, 0xAA]) =
    .ok (.pingReq [0x22] 0xDB 0x88, [0xAA]) ∧
  decode (.frame [0xAA, 0x55, 0x01, 0x01, 0x22, 0xDB]) = .error .incomplete ∧
  decode (.chunk [0xAA, 0x55, 0x01]) = .ok (.rxByte 0xAA, [0x55, 0x01]) ∧
  decode (.event .crcByte [0x7D, 0x07, 0x01]) = .ok (.crcByte 0x7D07 0x01, [])

/-- 00_scope.md section 7 (R13, R18), 20_memory.md sections 1 and 4 (R61, R76) and logs 1, 2, 4, 21: a step runs the
instruction its queue's head decodes to, with that input taken; of a received chunk that is one byte, in every phase,
and the rest stays at the head; an empty chunk is removed; with nothing offered the state stays. -/
def Obligations.StepRunsTheDecodedInstruction : Prop :=
  (∀ s : State, s.inbox = [] → step s = .next s) ∧
  (∀ (s : State) (rest : List Input), s.inbox = .chunk [] :: rest →
    step s = .next { s with inbox := rest }) ∧
  (∀ (s : State) (b : Byte) (rest : List Input), s.inbox = .chunk [b] :: rest →
    step s = exec (.rxByte b) { s with inbox := rest }) ∧
  (∀ (s : State) (b c : Byte) (bs : List Byte) (rest : List Input),
    s.inbox = .chunk (b :: c :: bs) :: rest →
    step s = exec (.rxByte b) { s with inbox := .chunk (c :: bs) :: rest }) ∧
  (∀ (s : State) (inp : Input) (rest : List Input) (i : Instr) (after : List Byte),
    s.inbox = inp :: rest → decode inp = .ok (i, after) →
    step s = exec i { s with inbox := if after = [] then rest else .chunk after :: rest }) ∧
  ∀ (s : State) (inp : Input) (rest : List Input) (e : DecodeError),
    s.inbox = inp :: rest → inp ≠ .chunk [] → decode inp = .error e →
    step s = .refused (.undecodable e)

/-- 00_scope.md section 7 (R13, R18), 41_reassembler.md section 2 and 70_reset_and_hazards.md section 4 (R320): a
queued chunk takes one step for each of its bytes and comes to what RX_CHUNK of its bytes gives, in every state and
with anything queued behind (a FRAME row is RX_CHUNK of its bytes by RxChunkIsItsBytesInOrder; log 2). -/
def Obligations.QueuedChunkRunsToItsBytes : Prop :=
  ∀ (s : State) (c : List Byte) (rest : List Input), c ≠ [] →
    run c.length { s with inbox := .chunk c :: rest } = exec (.rxChunk c) { s with inbox := rest }
end

