-- ==== Sys2Proof/Laws/Memory.lean ====
section
/-! SUPPORT. The frame buffer: read after write, and every store keeps the canonical form. -/

namespace Sys2Proof.Machine

theorem Memory.read_write_same (m : Memory) (a : Nat) (b : Byte) :
    Memory.read (Memory.write m a b) a = some b := by
  induction m with
  | nil => simp [Memory.write, Memory.read]
  | cons c t ih =>
    obtain ⟨x, v⟩ := c
    rcases lt_trichotomy a x with h | h | h
    · simp [Memory.write, Memory.read, h]
    · simp [Memory.write, Memory.read, h]
    · simp [Memory.write, Memory.read, not_lt.2 h.le, h.ne, h.ne', ih]

theorem Memory.read_write_other (m : Memory) {a c : Nat} (b : Byte) (h : c ≠ a) :
    Memory.read (Memory.write m a b) c = Memory.read m c := by
  induction m with
  | nil => simp [Memory.write, Memory.read, h.symm]
  | cons d t ih =>
    obtain ⟨x, v⟩ := d
    rcases lt_trichotomy a x with hx | hx | hx
    · simp [Memory.write, Memory.read, hx, h.symm]
    · subst hx; simp [Memory.write, Memory.read, h.symm]
    · simp [Memory.write, Memory.read, not_lt.2 hx.le, hx.ne', ih]

/-- An entry of a written memory is the new one or an old one. -/
theorem Memory.mem_write {m : Memory} {a : Nat} {b : Byte} {c : Host.Cell}
    (h : c ∈ Memory.write m a b) : c = (a, b) ∨ c ∈ m := by
  induction m with
  | nil => simpa [Memory.write] using h
  | cons d t ih =>
    obtain ⟨x, v⟩ := d
    simp only [Memory.write] at h
    split at h
    · simpa using h
    · split at h
      · rcases List.mem_cons.1 h with h | h
        · exact .inl h
        · exact .inr (List.mem_cons_of_mem _ h)
      · rcases List.mem_cons.1 h with h | h
        · exact .inr (h ▸ List.mem_cons_self ..)
        · exact (ih h).imp_right (List.mem_cons_of_mem _)

theorem Memory.wf_nil : Memory.wf [] := by simp [Memory.wf]

/-- A store inside the buffer keeps the canonical form. -/
theorem Memory.wf_write {m : Memory} {a : Nat} (b : Byte) (ha : a < fbSize) (h : Memory.wf m) :
    Memory.wf (Memory.write m a b) := by
  refine ⟨?_, fun c hc => ?_⟩
  · have hp := h.1
    clear h
    induction m with
    | nil => simp [Memory.write]
    | cons d t ih =>
      obtain ⟨x, v⟩ := d
      obtain ⟨hd, ht⟩ := List.pairwise_cons.1 hp
      simp only [Memory.write]
      split
      · rename_i hax
        refine List.pairwise_cons.2 ⟨fun c hc => ?_, hp⟩
        rcases List.mem_cons.1 hc with rfl | hc
        · exact hax
        · exact lt_trans hax (hd c hc)
      · split
        · rename_i hax; subst hax
          exact List.pairwise_cons.2 ⟨fun c hc => hd c hc, ht⟩
        · refine List.pairwise_cons.2 ⟨fun c hc => ?_, ih ht⟩
          rcases Memory.mem_write hc with rfl | hc
          · show x < a; omega
          · exact hd c hc
  · rcases Memory.mem_write hc with rfl | hc
    · exact ha
    · exact h.2 c hc

theorem Memory.readN_length {m : Memory} {a n : Nat} {bs : List Byte}
    (h : Memory.readN m a n = some bs) : bs.length = n := by
  induction n generalizing a bs with
  | zero => simp [Memory.readN] at h; simp [← h]
  | succ n ih =>
    simp only [Memory.readN] at h
    split at h
    · rename_i hr; cases h; simp [ih hr]
    · cases h

/-- A store outside a range leaves the range's bytes. -/
theorem Memory.readN_write_outside (m : Memory) (c : Nat) (b : Byte) (a n : Nat)
    (h : c < a ∨ a + n ≤ c) : Memory.readN (Memory.write m c b) a n = Memory.readN m a n := by
  induction n generalizing a with
  | zero => rfl
  | succ n ih =>
    simp only [Memory.readN]
    rw [Memory.read_write_other _ _ (by omega), ih _ (by omega)]

theorem Memory.readN_succ (m : Memory) (a n : Nat) :
    Memory.readN m a (n + 1) =
      match Memory.readN m a n, Memory.read m (a + n) with
      | some bs, some b => some (bs ++ [b])
      | _, _ => none := by
  induction n generalizing a with
  | zero => simp only [Memory.readN]; cases Memory.read m a <;> rfl
  | succ n ih =>
    rw [Memory.readN, ih]
    conv_rhs => rw [Memory.readN]
    rw [show a + 1 + n = a + (n + 1) by omega]
    cases Memory.read m a <;> cases Memory.readN m (a + 1) n <;>
      cases Memory.read m (a + (n + 1)) <;> rfl

/-- The buffer filled in ascending order (R63): a store just behind the bytes collected appends to them. -/
theorem Memory.readN_write_next {m : Memory} {n : Nat} {bs : List Byte} (b : Byte)
    (h : Memory.readN m 0 n = some bs) :
    Memory.readN (Memory.write m n b) 0 (n + 1) = some (bs ++ [b]) := by
  rw [Memory.readN_succ, Memory.readN_write_outside _ _ _ _ _ (by omega), h]
  simp [Memory.read_write_same]

/-- In canonical form, equal reads mean equal data. -/
theorem Memory.ext_read {m m' : Memory} (h : Memory.wf m) (h' : Memory.wf m')
    (hr : ∀ a, Memory.read m a = Memory.read m' a) : m = m' := by
  have below : ∀ {t : Memory} {x : Nat}, (∀ c ∈ t, x < c.1) → Memory.read t x = none := by
    intro t x ht
    induction t with
    | nil => rfl
    | cons c t ih =>
      obtain ⟨y, v⟩ := c
      have hy := ht (y, v) (List.mem_cons_self ..)
      simp only [Memory.read]
      rw [if_neg (by simp at hy; omega)]
      exact ih fun c hc => ht c (List.mem_cons_of_mem _ hc)
  have h1 := h.1
  have h2 := h'.1
  clear h h'
  induction m generalizing m' with
  | nil =>
    cases m' with
    | nil => rfl
    | cons c t => obtain ⟨x, v⟩ := c; have := hr x; simp [Memory.read] at this
  | cons c t ih =>
    obtain ⟨x, v⟩ := c
    cases m' with
    | nil => have := hr x; simp [Memory.read] at this
    | cons d t' =>
      obtain ⟨y, w⟩ := d
      obtain ⟨hc, ht⟩ := List.pairwise_cons.1 h1
      obtain ⟨hd, ht'⟩ := List.pairwise_cons.1 h2
      have hxy : x = y := by
        rcases lt_trichotomy x y with hl | hl | hl
        · have := hr x
          rw [below (t := (y, w) :: t') (x := x)
            (by intro c hc'; rcases List.mem_cons.1 hc' with rfl | hc'
                · exact hl
                · exact lt_trans hl (hd c hc'))] at this
          simp [Memory.read] at this
        · exact hl
        · have := hr y
          rw [below (t := (x, v) :: t) (x := y)
            (by intro c hc'; rcases List.mem_cons.1 hc' with rfl | hc'
                · exact hl
                · exact lt_trans hl (hc c hc'))] at this
          simp [Memory.read] at this
      subst hxy
      have hv : v = w := by have := hr x; simpa [Memory.read] using this
      subst hv
      congr 1
      refine ih (fun a => ?_) ht ht'
      have := hr a
      simp only [Memory.read] at this
      by_cases hax : x = a
      · subst hax; rw [below (t := t) (fun c h => hc c h), below (t := t') (fun c h => hd c h)]
      · simpa [hax] using this

end Sys2Proof.Machine
end

