-- ==== Sys2Proof/Laws/State.lean ====
section
/-! SUPPORT. One lemma per field per update of the state, each true by rfl. -/

namespace Sys2Proof.Machine

@[simp] theorem State.setFlag_crc (f : BitVec 4) (s : State) :
    (s.setFlag f).crc = s.crc := rfl
@[simp] theorem State.setFlag_ph (f : BitVec 4) (s : State) :
    (s.setFlag f).ph = s.ph := rfl
@[simp] theorem State.setFlag_len (f : BitVec 4) (s : State) :
    (s.setFlag f).len = s.len := rfl
@[simp] theorem State.setFlag_cnt (f : BitVec 4) (s : State) :
    (s.setFlag f).cnt = s.cnt := rfl
@[simp] theorem State.setFlag_fb (f : BitVec 4) (s : State) :
    (s.setFlag f).fb = s.fb := rfl
@[simp] theorem State.setFlag_fbn (f : BitVec 4) (s : State) :
    (s.setFlag f).fbn = s.fbn := rfl
@[simp] theorem State.setFlag_crcLo (f : BitVec 4) (s : State) :
    (s.setFlag f).crcLo = s.crcLo := rfl
@[simp] theorem State.setFlag_status (f : BitVec 4) (s : State) :
    (s.setFlag f).status = s.status ||| f := rfl
@[simp] theorem State.setFlag_obs (f : BitVec 4) (s : State) :
    (s.setFlag f).obs = s.obs := rfl
@[simp] theorem State.setFlag_inbox (f : BitVec 4) (s : State) :
    (s.setFlag f).inbox = s.inbox := rfl
@[simp] theorem State.setFlag_out (f : BitVec 4) (s : State) :
    (s.setFlag f).out = s.out := rfl
@[simp] theorem State.setFlag_returns (f : BitVec 4) (s : State) :
    (s.setFlag f).returns = s.returns := rfl
@[simp] theorem State.setFlag_tx (f : BitVec 4) (s : State) :
    (s.setFlag f).tx = s.tx := rfl

@[simp] theorem State.emit_crc (evs : List OutEvent) (s : State) :
    (s.emit evs).crc = s.crc := rfl
@[simp] theorem State.emit_ph (evs : List OutEvent) (s : State) :
    (s.emit evs).ph = s.ph := rfl
@[simp] theorem State.emit_len (evs : List OutEvent) (s : State) :
    (s.emit evs).len = s.len := rfl
@[simp] theorem State.emit_cnt (evs : List OutEvent) (s : State) :
    (s.emit evs).cnt = s.cnt := rfl
@[simp] theorem State.emit_fb (evs : List OutEvent) (s : State) :
    (s.emit evs).fb = s.fb := rfl
@[simp] theorem State.emit_fbn (evs : List OutEvent) (s : State) :
    (s.emit evs).fbn = s.fbn := rfl
@[simp] theorem State.emit_crcLo (evs : List OutEvent) (s : State) :
    (s.emit evs).crcLo = s.crcLo := rfl
@[simp] theorem State.emit_status (evs : List OutEvent) (s : State) :
    (s.emit evs).status = s.status := rfl
@[simp] theorem State.emit_obs (evs : List OutEvent) (s : State) :
    (s.emit evs).obs = s.obs := rfl
@[simp] theorem State.emit_inbox (evs : List OutEvent) (s : State) :
    (s.emit evs).inbox = s.inbox := rfl
@[simp] theorem State.emit_out (evs : List OutEvent) (s : State) :
    (s.emit evs).out = s.out ++ evs := rfl
@[simp] theorem State.emit_returns (evs : List OutEvent) (s : State) :
    (s.emit evs).returns = s.returns := rfl
@[simp] theorem State.emit_tx (evs : List OutEvent) (s : State) :
    (s.emit evs).tx = s.tx := rfl

@[simp] theorem State.answer_crc (r : Result) (s : State) :
    (s.answer r).crc = s.crc := rfl
@[simp] theorem State.answer_ph (r : Result) (s : State) :
    (s.answer r).ph = s.ph := rfl
@[simp] theorem State.answer_len (r : Result) (s : State) :
    (s.answer r).len = s.len := rfl
@[simp] theorem State.answer_cnt (r : Result) (s : State) :
    (s.answer r).cnt = s.cnt := rfl
@[simp] theorem State.answer_fb (r : Result) (s : State) :
    (s.answer r).fb = s.fb := rfl
@[simp] theorem State.answer_fbn (r : Result) (s : State) :
    (s.answer r).fbn = s.fbn := rfl
@[simp] theorem State.answer_crcLo (r : Result) (s : State) :
    (s.answer r).crcLo = s.crcLo := rfl
@[simp] theorem State.answer_status (r : Result) (s : State) :
    (s.answer r).status = s.status := rfl
@[simp] theorem State.answer_obs (r : Result) (s : State) :
    (s.answer r).obs = s.obs := rfl
@[simp] theorem State.answer_inbox (r : Result) (s : State) :
    (s.answer r).inbox = s.inbox := rfl
@[simp] theorem State.answer_out (r : Result) (s : State) :
    (s.answer r).out = s.out := rfl
@[simp] theorem State.answer_returns (r : Result) (s : State) :
    (s.answer r).returns = s.returns ++ [r] := rfl
@[simp] theorem State.answer_tx (r : Result) (s : State) :
    (s.answer r).tx = s.tx := rfl

@[simp] theorem State.handOver_crc (c : List Byte) (s : State) :
    (s.handOver c).crc = s.crc := rfl
@[simp] theorem State.handOver_ph (c : List Byte) (s : State) :
    (s.handOver c).ph = s.ph := rfl
@[simp] theorem State.handOver_len (c : List Byte) (s : State) :
    (s.handOver c).len = s.len := rfl
@[simp] theorem State.handOver_cnt (c : List Byte) (s : State) :
    (s.handOver c).cnt = s.cnt := rfl
@[simp] theorem State.handOver_fb (c : List Byte) (s : State) :
    (s.handOver c).fb = s.fb := rfl
@[simp] theorem State.handOver_fbn (c : List Byte) (s : State) :
    (s.handOver c).fbn = s.fbn := rfl
@[simp] theorem State.handOver_crcLo (c : List Byte) (s : State) :
    (s.handOver c).crcLo = s.crcLo := rfl
@[simp] theorem State.handOver_status (c : List Byte) (s : State) :
    (s.handOver c).status = s.status := rfl
@[simp] theorem State.handOver_obs (c : List Byte) (s : State) :
    (s.handOver c).obs = s.obs := rfl
@[simp] theorem State.handOver_inbox (c : List Byte) (s : State) :
    (s.handOver c).inbox = s.inbox := rfl
@[simp] theorem State.handOver_out (c : List Byte) (s : State) :
    (s.handOver c).out = s.out := rfl
@[simp] theorem State.handOver_returns (c : List Byte) (s : State) :
    (s.handOver c).returns = s.returns := rfl
@[simp] theorem State.handOver_tx (c : List Byte) (s : State) :
    (s.handOver c).tx = s.tx ++ [c] := rfl

@[simp] theorem resumeHunt_crc (s : State) :
    (resumeHunt s).crc = s.crc := rfl
@[simp] theorem resumeHunt_ph (s : State) :
    (resumeHunt s).ph = .hunt := rfl
@[simp] theorem resumeHunt_len (s : State) :
    (resumeHunt s).len = s.len := rfl
@[simp] theorem resumeHunt_cnt (s : State) :
    (resumeHunt s).cnt = s.cnt := rfl
@[simp] theorem resumeHunt_fb (s : State) :
    (resumeHunt s).fb = s.fb := rfl
@[simp] theorem resumeHunt_fbn (s : State) :
    (resumeHunt s).fbn = s.fbn := rfl
@[simp] theorem resumeHunt_crcLo (s : State) :
    (resumeHunt s).crcLo = s.crcLo := rfl
@[simp] theorem resumeHunt_status (s : State) :
    (resumeHunt s).status = s.status := rfl
@[simp] theorem resumeHunt_obs (s : State) :
    (resumeHunt s).obs = s.obs := rfl
@[simp] theorem resumeHunt_inbox (s : State) :
    (resumeHunt s).inbox = s.inbox := rfl
@[simp] theorem resumeHunt_out (s : State) :
    (resumeHunt s).out = s.out := rfl
@[simp] theorem resumeHunt_returns (s : State) :
    (resumeHunt s).returns = s.returns := rfl
@[simp] theorem resumeHunt_tx (s : State) :
    (resumeHunt s).tx = s.tx := rfl

@[simp] theorem takeError_crc (e : Err) (d : List Byte) (s : State) :
    (takeError e d s).crc = s.crc := rfl
@[simp] theorem takeError_ph (e : Err) (d : List Byte) (s : State) :
    (takeError e d s).ph = s.ph := rfl
@[simp] theorem takeError_len (e : Err) (d : List Byte) (s : State) :
    (takeError e d s).len = s.len := rfl
@[simp] theorem takeError_cnt (e : Err) (d : List Byte) (s : State) :
    (takeError e d s).cnt = s.cnt := rfl
@[simp] theorem takeError_fb (e : Err) (d : List Byte) (s : State) :
    (takeError e d s).fb = s.fb := rfl
@[simp] theorem takeError_fbn (e : Err) (d : List Byte) (s : State) :
    (takeError e d s).fbn = s.fbn := rfl
@[simp] theorem takeError_crcLo (e : Err) (d : List Byte) (s : State) :
    (takeError e d s).crcLo = s.crcLo := rfl
@[simp] theorem takeError_status (e : Err) (d : List Byte) (s : State) :
    (takeError e d s).status = s.status ||| e.flag := rfl
@[simp] theorem takeError_obs (e : Err) (d : List Byte) (s : State) :
    (takeError e d s).obs = s.obs := rfl
@[simp] theorem takeError_inbox (e : Err) (d : List Byte) (s : State) :
    (takeError e d s).inbox = s.inbox := rfl
@[simp] theorem takeError_out (e : Err) (d : List Byte) (s : State) :
    (takeError e d s).out = s.out ++ [e.event d] := rfl
@[simp] theorem takeError_returns (e : Err) (d : List Byte) (s : State) :
    (takeError e d s).returns = s.returns := rfl
@[simp] theorem takeError_tx (e : Err) (d : List Byte) (s : State) :
    (takeError e d s).tx = s.tx := rfl

@[simp] theorem skipBytes_crc (bs : List Byte) (s : State) :
    (skipBytes bs s).crc = s.crc := rfl
@[simp] theorem skipBytes_ph (bs : List Byte) (s : State) :
    (skipBytes bs s).ph = s.ph := rfl
@[simp] theorem skipBytes_len (bs : List Byte) (s : State) :
    (skipBytes bs s).len = s.len := rfl
@[simp] theorem skipBytes_cnt (bs : List Byte) (s : State) :
    (skipBytes bs s).cnt = s.cnt := rfl
@[simp] theorem skipBytes_fb (bs : List Byte) (s : State) :
    (skipBytes bs s).fb = s.fb := rfl
@[simp] theorem skipBytes_fbn (bs : List Byte) (s : State) :
    (skipBytes bs s).fbn = s.fbn := rfl
@[simp] theorem skipBytes_crcLo (bs : List Byte) (s : State) :
    (skipBytes bs s).crcLo = s.crcLo := rfl
@[simp] theorem skipBytes_status (bs : List Byte) (s : State) :
    (skipBytes bs s).status = s.status ||| skipFlag := rfl
@[simp] theorem skipBytes_obs (bs : List Byte) (s : State) :
    (skipBytes bs s).obs = s.obs := rfl
@[simp] theorem skipBytes_inbox (bs : List Byte) (s : State) :
    (skipBytes bs s).inbox = s.inbox := rfl
@[simp] theorem skipBytes_out (bs : List Byte) (s : State) :
    (skipBytes bs s).out = s.out ++ bs.map .logSkip := rfl
@[simp] theorem skipBytes_returns (bs : List Byte) (s : State) :
    (skipBytes bs s).returns = s.returns := rfl
@[simp] theorem skipBytes_tx (bs : List Byte) (s : State) :
    (skipBytes bs s).tx = s.tx := rfl

@[simp] theorem deliver_crc (m : Message) (s : State) :
    (deliver m s).crc = s.crc := rfl
@[simp] theorem deliver_ph (m : Message) (s : State) :
    (deliver m s).ph = s.ph := rfl
@[simp] theorem deliver_len (m : Message) (s : State) :
    (deliver m s).len = s.len := rfl
@[simp] theorem deliver_cnt (m : Message) (s : State) :
    (deliver m s).cnt = s.cnt := rfl
@[simp] theorem deliver_fb (m : Message) (s : State) :
    (deliver m s).fb = s.fb := rfl
@[simp] theorem deliver_fbn (m : Message) (s : State) :
    (deliver m s).fbn = s.fbn := rfl
@[simp] theorem deliver_crcLo (m : Message) (s : State) :
    (deliver m s).crcLo = s.crcLo := rfl
@[simp] theorem deliver_status (m : Message) (s : State) :
    (deliver m s).status = s.status := rfl
@[simp] theorem deliver_obs (m : Message) (s : State) :
    (deliver m s).obs = s.obs := rfl
@[simp] theorem deliver_inbox (m : Message) (s : State) :
    (deliver m s).inbox = s.inbox := rfl
@[simp] theorem deliver_out (m : Message) (s : State) :
    (deliver m s).out = s.out ++ s.obs.map fun o => .deliver o m := rfl
@[simp] theorem deliver_returns (m : Message) (s : State) :
    (deliver m s).returns = s.returns := rfl
@[simp] theorem deliver_tx (m : Message) (s : State) :
    (deliver m s).tx = s.tx := rfl

@[simp] theorem resetElements_crc (s : State) :
    (resetElements s).crc = 0xFFFF := rfl
@[simp] theorem resetElements_ph (s : State) :
    (resetElements s).ph = .hunt := rfl
@[simp] theorem resetElements_len (s : State) :
    (resetElements s).len = 0 := rfl
@[simp] theorem resetElements_cnt (s : State) :
    (resetElements s).cnt = 0 := rfl
@[simp] theorem resetElements_fb (s : State) :
    (resetElements s).fb = [] := rfl
@[simp] theorem resetElements_fbn (s : State) :
    (resetElements s).fbn = 0 := rfl
@[simp] theorem resetElements_crcLo (s : State) :
    (resetElements s).crcLo = 0 := rfl
@[simp] theorem resetElements_status (s : State) :
    (resetElements s).status = 0 := rfl
@[simp] theorem resetElements_obs (s : State) :
    (resetElements s).obs = [] := rfl
@[simp] theorem resetElements_inbox (s : State) :
    (resetElements s).inbox = s.inbox := rfl
@[simp] theorem resetElements_out (s : State) :
    (resetElements s).out = s.out := rfl
@[simp] theorem resetElements_returns (s : State) :
    (resetElements s).returns = s.returns := rfl
@[simp] theorem resetElements_tx (s : State) :
    (resetElements s).tx = s.tx := rfl

end Sys2Proof.Machine
end

