-- ==== Sys2Proof/Laws/Ops.lean ====
section
/-! SUPPORT. One lemma per shared operation saying everything it can do; later proofs cite these and do not unfold
the operations. -/

namespace Sys2Proof.Machine

@[simp] theorem andThen_next (s : State) (f : State → Host.Outcome State Fault Refusal) :
    andThen (.next s) f = f s := rfl

/-- A sequence that answers a next state went through one. -/
theorem andThen_eq_next {o : Host.Outcome State Fault Refusal}
    {f : State → Host.Outcome State Fault Refusal} {t : State} (h : andThen o f = .next t) :
    ∃ u, o = .next u ∧ f u = .next t := by
  cases o with
  | next u => exact ⟨u, rfl, h⟩
  | fault r => cases h
  | refused r => cases h

theorem andThen_assoc (o : Host.Outcome State Fault Refusal)
    (f g : State → Host.Outcome State Fault Refusal) :
    andThen (andThen o f) g = andThen o fun s => andThen (f s) g := by
  cases o <;> rfl

theorem storeFb_of_lt {a : Nat} (h : a < fbSize) (b : Byte) (s : State) :
    storeFb a b s = .next { s with fb := Memory.write s.fb a b } := if_pos h

theorem collect_of_lt {a : Nat} (h : a < fbSize) (n : BitVec 9) (b : Byte) (s : State) :
    collect a n b s =
      .next { s with fb := Memory.write s.fb a b, fbn := n, crc := crcByte s.crc b } := by
  simp [collect, storeFb_of_lt h]

theorem collect_eq_next {a : Nat} {n : BitVec 9} {b : Byte} {s t : State}
    (h : collect a n b s = .next t) :
    a < fbSize ∧ t = { s with fb := Memory.write s.fb a b, fbn := n, crc := crcByte s.crc b } := by
  by_cases ha : a < fbSize
  · rw [collect_of_lt ha] at h; cases h; exact ⟨ha, rfl⟩
  · simp [collect, storeFb, ha, andThen] at h

theorem collected_of_readN {s : State} {pf : List Byte} (hn : s.fbn.toNat ≤ fbSize)
    (h : Memory.readN s.fb 0 s.fbn.toNat = some pf) : collected s = .ok pf := by
  simp [collected, h, not_lt.2 hn]

theorem collected_eq_ok {s : State} {pf : List Byte} (h : collected s = .ok pf) :
    s.fbn.toNat ≤ fbSize ∧ Memory.readN s.fb 0 s.fbn.toNat = some pf := by
  simp only [collected] at h
  split at h
  · cases h
  · rename_i hn
    split at h
    · rename_i hr; cases h; exact ⟨not_lt.1 hn, hr⟩
    · cases h

/-- The next state of each phase rule: LEN. -/
theorem rxLen_eq (b : Byte) (s : State) :
    rxLen b s = .next { s with
      fb := Memory.write s.fb 0 b, fbn := 1, crc := crcByte s.crc b, len := b, cnt := 0, ph := .opc } := by
  simp [rxLen, collect_of_lt (a := 0) (by decide)]

theorem rxOpc_eq (b : Byte) (s : State) :
    rxOpc b s = .next { s with
      fb := Memory.write s.fb 1 b, fbn := 2, crc := crcByte s.crc b,
      ph := if s.len = 0 then .crclo else .pay } := by
  simp [rxOpc, collect_of_lt (a := 1) (by decide)]

theorem rxPay_eq {s : State} (h : 2 + s.cnt.toNat < fbSize) (b : Byte) :
    rxPay b s = .next { s with
      fb := Memory.write s.fb (2 + s.cnt.toNat) b, fbn := s.fbn + 1, crc := crcByte s.crc b,
      cnt := s.cnt + 1,
      ph := if s.cnt.toNat + 1 = s.len.toNat then .crclo else .pay } := by
  simp [rxPay, collect_of_lt h]

theorem rxPay_eq_next {s t : State} {b : Byte} (h : rxPay b s = .next t) :
    2 + s.cnt.toNat < fbSize ∧ t = { s with
      fb := Memory.write s.fb (2 + s.cnt.toNat) b, fbn := s.fbn + 1, crc := crcByte s.crc b,
      cnt := s.cnt + 1,
      ph := if s.cnt.toNat + 1 = s.len.toNat then .crclo else .pay } := by
  obtain ⟨u, hu, -⟩ := andThen_eq_next h
  have ha := (collect_eq_next hu).1
  rw [rxPay_eq ha] at h
  cases h
  exact ⟨ha, rfl⟩

theorem rxCrchi_of_collected {s : State} {pf : List Byte} (h : collected s = .ok pf) (b : Byte) :
    rxCrchi b s = .next (resumeHunt
      (if s.crc = u16le s.crcLo b then accept pf s else dropCandidate pf b s)) := by
  simp only [rxCrchi, h, check]
  split_ifs <;> rfl

theorem rxCrchi_eq_next {s t : State} {b : Byte} (h : rxCrchi b s = .next t) :
    ∃ pf, collected s = .ok pf ∧ t = resumeHunt
      (if s.crc = u16le s.crcLo b then accept pf s else dropCandidate pf b s) := by
  cases hc : collected s with
  | error f => simp [rxCrchi, hc] at h
  | ok pf => rw [rxCrchi_of_collected hc] at h; cases h; exact ⟨pf, rfl, rfl⟩

/-- DECODE raises OpcodeMismatch or LengthMismatch, never CrcMismatch (R260). -/
theorem decodeMsg_ne_crcMismatch (p : Params) (pf : List Byte) :
    decodeMsg p pf ≠ .error .crcMismatch := by
  unfold decodeMsg parse
  split
  · split
    · simp
    · split
      · split <;> simp
      · simp
  · simp

/-- DISPATCH changes STATUS and the output list, nothing else (R200). -/
theorem dispatchMsg_eq (pf : List Byte) (s : State) :
    (∃ m, decodeMsg Config.params pf = .ok m ∧ dispatchMsg pf s = deliver m s) ∨
      ∃ e, decodeMsg Config.params pf = .error e ∧ dispatchMsg pf s = takeError e pf s := by
  unfold dispatchMsg
  cases decodeMsg Config.params pf with
  | ok m => exact .inl ⟨m, rfl, rfl⟩
  | error e => exact .inr ⟨e, rfl, rfl⟩

theorem dispatchMsg_only_status_out (pf : List Byte) (s : State) :
    dispatchMsg pf s =
      { s with status := (dispatchMsg pf s).status, out := (dispatchMsg pf s).out } := by
  rcases dispatchMsg_eq pf s with ⟨m, -, h⟩ | ⟨e, -, h⟩ <;> rw [h] <;> rfl

/-- DISPATCH appends to the output list, whatever it held. -/
theorem dispatchMsg_out (pf : List Byte) (s : State) :
    ∃ evs, (dispatchMsg pf s).out = s.out ++ evs ∧
      (∀ e ∈ evs, ∀ f, e ≠ .frame f) ∧ (∀ e ∈ evs, ∀ b, e ≠ .logSkip b) ∧
      ∀ e ∈ evs, ∀ c, e ≠ .logCrcDrop c := by
  rcases dispatchMsg_eq pf s with ⟨m, -, h⟩ | ⟨e, he, h⟩
  · refine ⟨_, by rw [h]; rfl, ?_, ?_, ?_⟩ <;> simp +contextual
  · refine ⟨_, by rw [h]; rfl, ?_, ?_, ?_⟩ <;> cases e <;>
      simp_all [Err.event, decodeMsg_ne_crcMismatch]

/-- A chunk in two parts (R160). -/
theorem receiveBytes_append (c d : List Byte) (s : State) :
    receiveBytes (c ++ d) s = andThen (receiveBytes c s) (receiveBytes d) := by
  induction c generalizing s with
  | nil => rfl
  | cons b c ih =>
    simp only [List.cons_append, receiveBytes, andThen_assoc]
    congr 1
    funext t
    exact ih t

@[simp] theorem receiveBytes_singleton (b : Byte) (s : State) :
    receiveBytes [b] s = receiveByte b s := by
  simp only [receiveBytes]
  cases receiveByte b s <;> rfl

/-- Everything one received byte can do (R151 to R158). -/
theorem receiveByte_cases {b : Byte} {s t : State} (h : receiveByte b s = .next t) :
    (s.ph = .hunt ∧ b = preamble0 ∧ t = { s with ph := .hunt55 }) ∨
    (s.ph = .hunt ∧ b ≠ preamble0 ∧ t = skipBytes [b] s) ∨
    (s.ph = .hunt55 ∧ b = preamble1 ∧ t = { s with ph := .len, crc := crcInit, fbn := 0 }) ∨
    (s.ph = .hunt55 ∧ b = preamble0 ∧ t = skipBytes [preamble0] s) ∨
    (s.ph = .hunt55 ∧ b ≠ preamble0 ∧ b ≠ preamble1 ∧
      t = { skipBytes [preamble0, b] s with ph := .hunt }) ∨
    (s.ph = .len ∧ t = { s with
      fb := Memory.write s.fb 0 b, fbn := 1, crc := crcByte s.crc b, len := b, cnt := 0,
      ph := .opc }) ∨
    (s.ph = .opc ∧ t = { s with
      fb := Memory.write s.fb 1 b, fbn := 2, crc := crcByte s.crc b,
      ph := if s.len = 0 then .crclo else .pay }) ∨
    (s.ph = .pay ∧ 2 + s.cnt.toNat < fbSize ∧ t = { s with
      fb := Memory.write s.fb (2 + s.cnt.toNat) b, fbn := s.fbn + 1, crc := crcByte s.crc b,
      cnt := s.cnt + 1,
      ph := if s.cnt.toNat + 1 = s.len.toNat then .crclo else .pay }) ∨
    (s.ph = .crclo ∧ t = { s with crcLo := b, ph := .crchi }) ∨
    (s.ph = .crchi ∧ ∃ pf, collected s = .ok pf ∧ t = resumeHunt
      (if s.crc = u16le s.crcLo b then accept pf s else dropCandidate pf b s)) := by
  unfold receiveByte at h
  split at h <;> rename_i hp
  · unfold rxHunt at h
    split at h <;> rename_i hb <;> cases h
    · exact .inl ⟨hp, hb, rfl⟩
    · exact .inr (.inl ⟨hp, hb, rfl⟩)
  · unfold rxHunt55 at h
    split at h
    · rename_i hb; cases h; exact .inr (.inr (.inl ⟨hp, hb, rfl⟩))
    · rename_i hb
      split at h <;> rename_i hb0 <;> cases h
      · exact .inr (.inr (.inr (.inl ⟨hp, hb0, rfl⟩)))
      · exact .inr (.inr (.inr (.inr (.inl ⟨hp, hb0, hb, rfl⟩))))
  · rw [rxLen_eq] at h; cases h
    exact .inr (.inr (.inr (.inr (.inr (.inl ⟨hp, rfl⟩)))))
  · rw [rxOpc_eq] at h; cases h
    exact .inr (.inr (.inr (.inr (.inr (.inr (.inl ⟨hp, rfl⟩))))))
  · obtain ⟨ha, ht⟩ := rxPay_eq_next h
    exact .inr (.inr (.inr (.inr (.inr (.inr (.inr (.inl ⟨hp, ha, ht⟩)))))))
  · cases h
    exact .inr (.inr (.inr (.inr (.inr (.inr (.inr (.inr (.inl ⟨hp, rfl⟩))))))))
  · obtain ⟨pf, hc, ht⟩ := rxCrchi_eq_next h
    exact .inr (.inr (.inr (.inr (.inr (.inr (.inr (.inr (.inr ⟨hp, pf, hc, ht⟩))))))))

/-- What SERIALIZE's meaning can answer. -/
theorem execSerialize_eq_next {op : Byte} {fields : Fields} {s t : State}
    (h : execSerialize op fields s = .next t) : ∃ r, t = s.answer r := by
  unfold execSerialize at h
  split at h <;> cases h
  · exact ⟨_, rfl⟩
  · exact ⟨_, rfl⟩

/-- What SEND's meaning can answer. -/
theorem execSend_eq_next {op : Byte} {fields : Fields} {s t : State}
    (h : execSend op fields s = .next t) : (∃ r, t = s.answer r) ∨ ∃ c, t = s.handOver c := by
  unfold execSend at h
  split at h <;> cases h
  · exact .inr ⟨_, rfl⟩
  · exact .inl ⟨_, rfl⟩

end Sys2Proof.Machine
end

