-- ==== Sys2Proof/Laws/PerInstr.lean ====
section
/-! SUPPORT. Statements made per instruction. FrameForm: a well-formed instruction of format FRAME
is a frame of 6 to 261 bytes that begins with the preamble (30_encoding.md R90, R91). -/

namespace Sys2Proof.Laws.FrameForm

open Sys2Proof.Machine

/-- The form of an instruction's encoding. -/
def Statement (i : Instr) : Prop :=
  ∀ bytes, encode i = .frame bytes → i.WellFormed →
    6 ≤ bytes.length ∧ bytes.length ≤ 261 ∧ bytes.take 2 = [0xAA, 0x55]

theorem of_frame {op : Byte} {payload : List Byte} {crcl crch : Byte} {bytes : List Byte}
    (h : Input.frame (frame op payload crcl crch) = .frame bytes) (hl : payload.length ≤ maxLength) :
    6 ≤ bytes.length ∧ bytes.length ≤ 261 ∧ bytes.take 2 = [0xAA, 0x55] := by
  cases h
  simp only [frame, msg, maxLength, List.length_cons, List.length_append, List.length_nil] at *
  exact ⟨by omega, by omega, rfl⟩

theorem pingReq (p : List Byte) (l h : Byte) : Statement (.pingReq p l h) := fun _ he hw =>
  of_frame he (by simpa [Instr.WellFormed, Instr.wf] using hw)
theorem deviceInitEvt (p : List Byte) (l h : Byte) : Statement (.deviceInitEvt p l h) := fun _ he hw =>
  of_frame he (by simpa [Instr.WellFormed, Instr.wf] using hw)
theorem zeroArgReq09 (p : List Byte) (l h : Byte) : Statement (.zeroArgReq09 p l h) := fun _ he hw =>
  of_frame he (by simpa [Instr.WellFormed, Instr.wf] using hw)
theorem generic (p : List Byte) (l h : Byte) : Statement (.generic p l h) := fun _ he hw =>
  of_frame he (by simpa [Instr.WellFormed, Instr.wf] using hw)
theorem unassigned (op : Byte) (p : List Byte) (l h : Byte) : Statement (.unassigned op p l h) :=
  fun _ he hw => of_frame he (by simp [Instr.WellFormed, Instr.wf] at hw; exact hw.1.1)
theorem tableRow (op : Byte) (p : List Byte) (l h : Byte) : Statement (.tableRow op p l h) :=
  fun _ he hw => of_frame he (by simp [Instr.WellFormed, Instr.wf] at hw; exact hw.1.1.1.1)
theorem reset : Statement .reset := nofun
theorem crcInit : Statement .crcInit := nofun
theorem crcByte (r : Word) (b : Byte) : Statement (.crcByte r b) := nofun
theorem crc16 (c : List Byte) : Statement (.crc16 c) := nofun
theorem rxHunt (b : Byte) : Statement (.rxHunt b) := nofun
theorem rxHunt55 (b : Byte) : Statement (.rxHunt55 b) := nofun
theorem rxLen (b : Byte) : Statement (.rxLen b) := nofun
theorem rxOpc (b : Byte) : Statement (.rxOpc b) := nofun
theorem rxPay (b : Byte) : Statement (.rxPay b) := nofun
theorem rxCrclo (b : Byte) : Statement (.rxCrclo b) := nofun
theorem rxCrchi (b : Byte) : Statement (.rxCrchi b) := nofun
theorem rxByte (b : Byte) : Statement (.rxByte b) := nofun
theorem rxChunk (c : List Byte) : Statement (.rxChunk c) := nofun
theorem extractFrames (c : List Byte) : Statement (.extractFrames c) := nofun
theorem validate (c : List Byte) : Statement (.validate c) := nofun
theorem dispatch (c : List Byte) : Statement (.dispatch c) := nofun
theorem deserialize (c : List Byte) : Statement (.deserialize c) := nofun
theorem decodeAs (x : Byte) (c : List Byte) : Statement (.decodeAs x c) := nofun
theorem registerObserver (o : ObserverId) : Statement (.registerObserver o) := nofun
theorem unregisterObserver (o : ObserverId) : Statement (.unregisterObserver o) := nofun
theorem serialize (op : Byte) (f : Fields) : Statement (.serialize op f) := nofun
theorem wrap (c : List Byte) : Statement (.wrap c) := nofun
theorem send (op : Byte) (f : Fields) : Statement (.send op f) := nofun

end Sys2Proof.Laws.FrameForm
end

