-- ==== Sys2Proof/Laws/Step.lean ====
section
/-! SUPPORT. Everything one step can do. -/

namespace Sys2Proof.Machine

/-- A next state of step is the state itself with nothing offered, the state with an empty chunk removed, or
what exec answers for the fetched instruction. -/
theorem step_cases {s t : State} (h : step s = .next t) :
    (s.inbox = [] ∧ t = s) ∨
      (∃ rest, s.inbox = .chunk [] :: rest ∧ t = { s with inbox := rest }) ∨
      ∃ i q, fetch s = .run i { s with inbox := q } ∧ exec i { s with inbox := q } = .next t := by
  obtain ⟨crc, ph, len, cnt, fb, fbn, crcLo, status, obs, inbox, out, returns, tx⟩ := s
  rcases inbox with _ | ⟨inp, rest⟩
  · cases h; exact .inl ⟨rfl, rfl⟩
  · cases inp with
    | chunk bytes =>
      cases bytes with
      | nil => cases h; exact .inr (.inl ⟨rest, rfl, rfl⟩)
      | cons b bs => exact .inr (.inr ⟨_, _, rfl, h⟩)
    | frame bytes =>
      simp only [step, fetch] at h ⊢
      cases hd : decode (.frame bytes) with
      | error e => simp [hd] at h
      | ok r => rw [hd] at h; exact .inr (.inr ⟨_, _, rfl, h⟩)
    | event op operand =>
      simp only [step, fetch] at h ⊢
      cases hd : decode (.event op operand) with
      | error e => simp [hd] at h
      | ok r => rw [hd] at h; exact .inr (.inr ⟨_, _, rfl, h⟩)
    | observer op o =>
      simp only [step, fetch] at h ⊢
      cases hd : decode (.observer op o) with
      | error e => simp [hd] at h
      | ok r => rw [hd] at h; exact .inr (.inr ⟨_, _, rfl, h⟩)
    | message op c f =>
      simp only [step, fetch] at h ⊢
      cases hd : decode (.message op c f) with
      | error e => simp [hd] at h
      | ok r => rw [hd] at h; exact .inr (.inr ⟨_, _, rfl, h⟩)

/-- An invariant that survives a change of the queue and every instruction survives every step. -/
theorem step_keeps {P : State → Prop} (hq : ∀ s q, P s → P { s with inbox := q })
    (hx : ∀ i s t, P s → exec i s = .next t → P t) {s t : State} (hs : P s)
    (h : step s = .next t) : P t := by
  rcases step_cases h with ⟨-, rfl⟩ | ⟨rest, -, rfl⟩ | ⟨i, q, -, hi⟩
  · exact hs
  · exact hq s rest hs
  · exact hx i _ t (hq s q hs) hi

/-- An invariant every received byte keeps is kept by every chunk (R160). -/
theorem receiveBytes_keeps {P : State → Prop}
    (hb : ∀ b s t, P s → receiveByte b s = .next t → P t) {c : List Byte} {s t : State} (hs : P s)
    (h : receiveBytes c s = .next t) : P t := by
  induction c generalizing s with
  | nil => cases h; exact hs
  | cons b c ih =>
    obtain ⟨u, hu, ht⟩ := andThen_eq_next h
    exact ih (hb b s u hs hu) ht

end Sys2Proof.Machine
end

