-- ==== Sys2Proof/Tests/Slice0.lean ====
section
/-! SUPPORT. Tests: expected values from spec/95_test_vectors.md (V1 to V24, P2) and from the encodings of
spec/opcode_table.json; and a witness for the hypotheses of every statement. -/

namespace Sys2Proof.Tests

open Sys2Proof Sys2Proof.Machine

set_option maxRecDepth 20000
set_option Elab.async false

/-- The answer is a next state with a property. -/
def answers (o : Host.Outcome State Fault Refusal) (f : State → Bool) : Bool :=
  match o with
  | .next t => f t
  | .fault _ => false
  | .refused _ => false

/-- The answer is this refusal. -/
def refuses (o : Host.Outcome State Fault Refusal) (r : Refusal) : Bool :=
  match o with
  | .next _ => false
  | .fault _ => false
  | .refused q => q = r

/-- The answer is this fault. -/
def faults (o : Host.Outcome State Fault Refusal) (r : Fault) : Bool :=
  match o with
  | .next _ => false
  | .fault q => q = r
  | .refused _ => false

/-- The reset state with one observer, the start state of 95_test_vectors.md. -/
def start : State := { State.reset with obs := [1] }

/-- The registers of the source's frame 01 01 22 before each of its bytes, by the trace P2. -/
def atLen : State := { start with ph := .len }
def atOpc : State := { start with ph := .opc, len := 1, fb := [(0, 1)], fbn := 1, crc := 0x7D07 }
def atPay : State := { atOpc with ph := .pay, fb := [(0, 1), (1, 1)], fbn := 2, crc := 0x860B }
def atCrclo : State :=
  { atPay with ph := .crclo, cnt := 1, fb := [(0, 1), (1, 1), (2, 0x22)], fbn := 3, crc := 0x88DB }
def atCrchi : State := { atCrclo with ph := .crchi, crcLo := 0xDB }

/-- The table of V20: 0x20 MDLIST, 0x21 FIXED(16), 0x22 NESTED(3, 2, 1), identifier 0x1234. -/
def v20 : Params where
  table op :=
    if op = 0x20 then some ⟨"M", .request, .mdlist⟩
    else if op = 0x21 then some ⟨"F", .request, .fixed 16⟩
    else if op = 0x22 then some ⟨"N", .request, .nested ⟨3, 2, .one, by decide⟩⟩
    else if op = 0x23 then some ⟨"W", .request, .nested ⟨2, 0, .two, by decide⟩⟩
    else none
  sensorSetupModelId := 0x1234
  nObs := 8

/-! Decoding: a word or a frame for every row, from the table's encoding column. -/

theorem test_decode_ping_req :
    decode (.frame [0xAA, 0x55, 0x01, 0x01, 0x22, 0xDB, 0x88]) = .ok (.pingReq [0x22] 0xDB 0x88, []) := by
  decide +kernel
theorem test_decode_device_init_evt :
    decode (.frame [0xAA, 0x55, 0x06, 0x03, 0x01, 0x10, 0x03, 0x10, 0x08, 0x10, 0x57, 0x93]) =
      .ok (.deviceInitEvt [0x01, 0x10, 0x03, 0x10, 0x08, 0x10] 0x57 0x93, []) := by decide +kernel
theorem test_decode_zero_arg_req_09 :
    decode (.frame [0xAA, 0x55, 0x00, 0x09, 0x3B, 0x80]) = .ok (.zeroArgReq09 [] 0x3B 0x80, []) := by
  decide +kernel
theorem test_decode_generic :
    decode (.frame [0xAA, 0x55, 0x00, 0xFF, 0x0F, 0x82]) = .ok (.generic [] 0x0F 0x82, []) := by
  decide +kernel
theorem test_decode_unassigned :
    decode (.frame [0xAA, 0x55, 0x00, 0xAB, 0xF4, 0x03]) = .ok (.unassigned 0xAB [] 0xF4 0x03, []) := by
  decide +kernel
theorem test_decode_table_row (e : Row) (h : lookup Config.params 0x20 = some e) :
    decode (.frame [0xAA, 0x55, 0x00, 0x20, 0x01, 0x02]) = .ok (.tableRow 0x20 [] 0x01 0x02, []) := by
  simp [decode, decodeFrame, frameRow, show lookup Config.params 32#8 = some e from h, preamble0, preamble1,
    opcodeGeneric]
theorem test_decode_header_words :
    decodeTableWord 32 0b10101010010101010000000000000001 = some (.pingReq [] 0 0) ∧
    decodeTableWord 32 0b10101010010101010000000100000011 = some (.deviceInitEvt [0] 0 0) ∧
    decodeTableWord 32 0b10101010010101010000000000001001 = some (.zeroArgReq09 [] 0 0) ∧
    decodeTableWord 32 0b10101010010101010000000011111111 = some (.generic [] 0 0) ∧
    decodeTableWord 32 0b10101010010101010000000010001101 = some (.unassigned 0x8D [] 0 0) ∧
    decodeTableWord 32 0b10101011010101010000000000000001 = none := by decide +kernel
theorem test_decode_calls :
    decode (.event .reset []) = .ok (.reset, []) ∧
    decode (.event .crcInit []) = .ok (.crcInit, []) ∧
    decode (.event .crcByte [0x7D, 0x07, 0x01]) = .ok (.crcByte 0x7D07 0x01, []) ∧
    decode (.event .crc16 [0x01, 0x01]) = .ok (.crc16 [0x01, 0x01], []) ∧
    decode (.event .extractFrames [0xAA]) = .ok (.extractFrames [0xAA], []) ∧
    decode (.event .validate [0xAA, 0x55, 0, 9, 1, 2]) = .ok (.validate [0xAA, 0x55, 0, 9, 1, 2], []) ∧
    decode (.event .dispatch [0, 9]) = .ok (.dispatch [0, 9], []) ∧
    decode (.event .deserialize [1]) = .ok (.deserialize [1], []) ∧
    decode (.event .decodeAs [0x01, 0x02, 0x03]) = .ok (.decodeAs 0x01 [0x02, 0x03], []) ∧
    decode (.event .wrap [0x01, 0x07, 0x22]) = .ok (.wrap [0x01, 0x07, 0x22], []) := by decide +kernel
theorem test_decode_receive_events :
    decode (.event .rxHunt [0xAA]) = .ok (.rxHunt 0xAA, []) ∧
    decode (.event .rxHunt55 [0x55]) = .ok (.rxHunt55 0x55, []) ∧
    decode (.event .rxLen [3]) = .ok (.rxLen 3, []) ∧ decode (.event .rxOpc [4]) = .ok (.rxOpc 4, []) ∧
    decode (.event .rxPay [5]) = .ok (.rxPay 5, []) ∧
    decode (.event .rxCrclo [6]) = .ok (.rxCrclo 6, []) ∧
    decode (.event .rxCrchi [7]) = .ok (.rxCrchi 7, []) ∧
    decode (.chunk [8]) = .ok (.rxByte 8, []) ∧ decode (.chunk [0xAA, 0x55]) = .ok (.rxByte 0xAA, [0x55]) ∧
    decode (.event .rxChunk [9, 10]) = .ok (.rxChunk [9, 10], []) := by decide +kernel
theorem test_decode_observers_and_messages :
    decode (.observer .register 4) = .ok (.registerObserver 4, []) ∧
    decode (.observer .unregister 4) = .ok (.unregisterObserver 4, []) ∧
    decode (.message .serialize 9 .empty) = .ok (.serialize 9 .empty, []) ∧
    decode (.message .send 9 .empty) = .ok (.send 9 .empty, []) := by decide +kernel
theorem test_decode_rejects :
    decode (.chunk []) = .error .emptyChunk ∧ decode (.frame []) = .error .noPreamble ∧
    decode (.frame [0x55, 0xAA, 0, 9, 0, 0]) = .error .noPreamble ∧
    decode (.frame [0xAA, 0x55, 0x01, 0x01, 0x22, 0xDB]) = .error .incomplete ∧
    decode (.event .reset [0]) = .error .operandForm ∧
    decode (.event .crcByte [0, 0]) = .error .operandForm ∧
    decode (.event .rxHunt []) = .error .operandForm ∧
    decode (.event .wrap [0x02, 0x07, 0x22]) = .error .operandForm := by decide +kernel

/-! WellFormed: an ill-formed term for each check. -/

theorem test_illformed_payload_over_255 :
    (Instr.pingReq (List.replicate 256 0) 0 0).wf = false ∧
    (Instr.deviceInitEvt (List.replicate 256 0) 0 0).wf = false ∧
    (Instr.zeroArgReq09 (List.replicate 256 0) 0 0).wf = false ∧
    (Instr.generic (List.replicate 256 0) 0 0).wf = false ∧
    (Instr.unassigned 0xAB (List.replicate 256 0) 0 0).wf = false ∧
    (Instr.tableRow 0x20 (List.replicate 256 0) 0 0).wf = false := by decide +kernel
theorem test_illformed_opcode_class :
    (Instr.unassigned 0xFF [] 0 0).wf = false ∧ (Instr.unassigned 0x09 [] 0 0).wf = false ∧
    (Instr.tableRow 0x01 [] 0 0).wf = false ∧ (Instr.tableRow 0x03 [] 0 0).wf = false ∧
    (Instr.tableRow 0x09 [] 0 0).wf = false ∧ (Instr.tableRow 0x8D [] 0 0).wf = false := by decide +kernel
theorem test_illformed_operands :
    (Instr.wrap [1]).wf = false ∧
    (Instr.wrap [1, 9]).wf = false := by decide +kernel
theorem test_wellformed :
    (Instr.pingReq (List.replicate 255 0) 0 0).wf = true ∧ (Instr.unassigned 0xAB [] 0 0).wf = true ∧
    (Instr.validate [0xAA]).wf = true ∧ (Instr.wrap [0, 9]).wf = true := by
  decide +kernel

/-! CRC: V8, V9, V10. -/

theorem test_crc16_values :
    crc16 [] = 0xFFFF ∧ crc16 [0x80] = 0x7E01 ∧ crc16 [0xFF, 0xFF] = 0x0000 ∧
    crc16 [0x01, 0x01, 0x22] = 0x88DB ∧ crc16 [0x06, 0x01, 0xAA, 0x55, 0x00, 0x09, 0x3B, 0x80] = 0x52DB ∧
    crc16 [0x31, 0x32, 0x33, 0x34, 0x35, 0x36, 0x37, 0x38, 0x39] = 0xAEE7 := by decide +kernel
theorem test_crc_byte_values :
    crcByte 0x7D07 0x01 = 0x860B ∧ crcByte 0xFD02 0x09 = 0x803B ∧ crcByte 0x0000 0x80 = 0x8303 := by
  decide +kernel
theorem test_crc_byte_answers :
    answers (exec (.crcByte 0x860B 0x22) start) (fun t => t.returns = [.crc 0x88DB]) = true := by
  decide +kernel
theorem test_crc_init_answers :
    answers (exec .crcInit start) (fun t => t.returns = [.crc 0xFFFF]) = true := by decide +kernel
theorem test_crc16_answers :
    answers (exec (.crc16 [0x00, 0x09]) start) (fun t => t.returns = [.crc 0x803B]) = true := by
  decide +kernel

/-! The reassembler: the trace P2, V11, V13 to V17, V23, V24. -/

theorem test_rx_hunt :
    answers (exec (.rxHunt 0xAA) start) (fun t => t.ph = .hunt55 && t.out = [] && t.status = 0) = true := by
  decide +kernel
theorem test_rx_hunt_skips :
    answers (exec (.rxHunt 0x55) start) (fun t => t.ph = .hunt && t.out = [.logSkip 0x55] && t.status = 8)
      = true := by decide +kernel
theorem test_rx_hunt55_takes_the_second_aa :
    answers (exec (.rxChunk [0xAA, 0xAA, 0x55]) start)
      (fun t => t.ph = .len && t.out = [.logSkip 0xAA] && t.crc = 0xFFFF && t.fbn = 0) = true := by
  decide +kernel
theorem test_rx_hunt55_skips_two :
    answers (exec (.rxHunt55 0x00) { start with ph := .hunt55 })
      (fun t => t.ph = .hunt && t.out = [.logSkip 0xAA, .logSkip 0x00]) = true := by decide +kernel
theorem test_rx_len : answers (exec (.rxLen 1) atLen) (fun t => t = atOpc) = true := by decide +kernel
theorem test_rx_opc : answers (exec (.rxOpc 1) atOpc) (fun t => t = atPay) = true := by decide +kernel
theorem test_rx_opc_without_payload :
    answers (exec (.rxOpc 0xAB) { atOpc with len := 0, fb := [(0, 0)], crc := 0xFD02 })
      (fun t => t.ph = .crclo && t.crc = 0x03F4) = true := by decide +kernel
theorem test_rx_pay : answers (exec (.rxPay 0x22) atPay) (fun t => t = atCrclo) = true := by decide +kernel
theorem test_rx_pay_first_of_six_and_last_of_255 :
    answers (exec (.rxPay 0x01) { atPay with len := 6, crc := 0x9407 })
      (fun t => t.ph = .pay && t.crc = 0x047E && t.cnt = 1 && t.fbn = 3) = true ∧
    answers (exec (.rxPay 0xFE) { atPay with len := 255, cnt := 254, fbn := 256 })
      (fun t => t.ph = .crclo && t.cnt = 255 && t.fbn = 257 && Memory.read t.fb 256 = some 0xFE) = true := by
  decide +kernel
theorem test_rx_crclo : answers (exec (.rxCrclo 0xDB) atCrclo) (fun t => t = atCrchi) = true := by
  decide +kernel
theorem test_rx_crchi_accepts :
    answers (exec (.rxCrchi 0x88) atCrchi) (fun t => t.ph = .hunt && t.status = 0 &&
      t.out = [.frame [1, 1, 0x22], .deliver 1 ⟨0x01, "PING_REQ", .blob [0x22]⟩]) = true := by decide +kernel
theorem test_rx_crchi_drops :
    answers (exec (.rxCrchi 0x89) atCrchi) (fun t => t.ph = .hunt && t.status = 1 && t.crc = 0x88DB &&
      t.out = [.logCrcDrop [0xAA, 0x55, 1, 1, 0x22, 0xDB, 0x89]]) = true := by decide +kernel
theorem test_rx_byte_selects_by_phase :
    answers (exec (.rxByte 0x22) atPay) (fun t => t = atCrclo) = true := by decide +kernel
theorem test_phase_rows_refuse :
    refuses (exec (.rxHunt 0xAA) atPay) .phaseNotSelected = true ∧
    refuses (exec (.rxCrchi 0xAA) start) .phaseNotSelected = true := by decide +kernel
theorem test_frame_buffer_faults :
    faults (exec (.rxPay 0) { atPay with cnt := 255, len := 255 }) (.fbOutOfRange 257) = true ∧
    faults (exec (.rxCrchi 0) { atCrchi with fbn := 258 }) (.fbOutOfRange 257) = true ∧
    faults (exec (.rxCrchi 0) { atCrchi with fb := [(0, 1), (2, 1)] }) .fbUnwritten = true := by
  decide +kernel
theorem test_rx_chunk_p2 :
    answers (exec (.rxChunk [0xAA, 0x55, 1, 1, 0x22, 0xDB, 0x89, 0xAA, 0x55, 0, 0xAB, 0xF4, 3, 0xAA, 0x55, 2,
        9, 0xAA, 0xBB, 3, 0x57, 0xAA, 0x55, 0, 9, 0x3B, 0x80]) start)
      (fun t => t.out = [.logCrcDrop [0xAA, 0x55, 1, 1, 0x22, 0xDB, 0x89], .frame [0, 0xAB],
          .logDecodeDrop 2 [0, 0xAB], .frame [2, 9, 0xAA, 0xBB], .logDecodeDrop 3 [2, 9, 0xAA, 0xBB],
          .frame [0, 9], .deliver 1 ⟨9, "ZERO_ARG_REQ_09", .empty⟩] &&
        t.status = 7 && t.ph = .hunt && t.crc = 0x803B && t.crcLo = 0x3B) = true := by decide +kernel
theorem test_extract_frames_basics :
    extractFrames [] = ([], []) ∧ extractFrames [0x00, 0x11, 0xAA] = ([], [0x00, 0x11, 0xAA]) ∧
    extractFrames [0x00, 0xAA, 0x55, 0x00, 0x09] = ([], [0xAA, 0x55, 0x00, 0x09]) ∧
    extractFrames [0xAA, 0x55, 1, 1, 0x22, 0xDB, 0x88, 0xAA, 0x55, 1, 1, 0x22] =
      ([[1, 1, 0x22]], [0xAA, 0x55, 1, 1, 0x22]) ∧
    extractFrames [0xAA, 0x55, 1, 1, 0x22, 0xDB, 0x89, 0xAA, 0x55, 0, 9, 0x3B, 0x80] = ([[0, 9]], []) := by
  decide +kernel
theorem test_extract_frames_false_preamble :
    answers (exec (.extractFrames [0xAA, 0x55, 5, 0xAA, 0x55, 0, 9, 0x3B, 0x80, 0xAA, 0x55, 1, 1, 0xAA, 0xEB,
        0x8B, 0xAA, 0x55, 0, 9, 0x3B, 0x80]) start)
      (fun t => t.returns = [.frames [[0, 9]] []] && t.out = []) = true := by decide +kernel
theorem test_reset_in_mid_frame :
    answers (exec .reset { atPay with out := [.logSkip 7], status := 9 }) (fun t =>
      t = { State.reset with out := [.logSkip 7] }) = true := by decide +kernel
theorem test_rx_chunk_after_reset :
    answers (exec (.rxChunk [0x22, 0xDB, 0x88, 0xAA, 0x55, 0, 9, 0x3B, 0x80]) State.reset)
      (fun t => t.out = [.logSkip 0x22, .logSkip 0xDB, .logSkip 0x88, .frame [0, 9]]) = true := by
  decide +kernel

/-! The FRAME rows: V14, V16, V19. -/

theorem test_ping_req_with_a_frame_inside :
    answers (exec (.pingReq [0xAA, 0x55, 0, 9, 0x3B, 0x80] 0xDB 0x52) start) (fun t => t.out =
      [.frame [6, 1, 0xAA, 0x55, 0, 9, 0x3B, 0x80],
        .deliver 1 ⟨1, "PING_REQ", .blob [0xAA, 0x55, 0, 9, 0x3B, 0x80]⟩]) = true := by decide +kernel
theorem test_device_init_evt :
    answers (exec (.deviceInitEvt [0x01, 0x10, 0x55, 0xAA] 0xEF 0x88) start) (fun t => t.out =
      [.frame [4, 3, 0x01, 0x10, 0x55, 0xAA],
        .deliver 1 ⟨3, "DEVICE_INIT_EVT", .list16 [0x1001, 0xAA55]⟩]) = true := by decide +kernel
theorem test_zero_arg_req_09_with_payload :
    answers (exec (.zeroArgReq09 [0xAA, 0xBB] 0x03 0x57) start) (fun t => t.status = 4 &&
      t.out = [.frame [2, 9, 0xAA, 0xBB], .logDecodeDrop 3 [2, 9, 0xAA, 0xBB]]) = true := by decide +kernel
theorem test_generic_is_dropped :
    answers (exec (.generic [] 0x0F 0x82) start) (fun t => t.status = 2 &&
      t.out = [.frame [0, 0xFF], .logDecodeDrop 2 [0, 0xFF]]) = true := by decide +kernel
theorem test_unassigned_is_dropped :
    answers (exec (.unassigned 0xAB [] 0xF4 0x03) start) (fun t => t.status = 2 &&
      t.out = [.frame [0, 0xAB], .logDecodeDrop 2 [0, 0xAB]]) = true := by decide +kernel
theorem test_table_row_with_bad_crc :
    answers (exec (.tableRow 0x20 [] 0x00 0x00) start) (fun t => t.status = 1 &&
      t.out = [.logCrcDrop [0xAA, 0x55, 0, 0x20, 0, 0]]) = true := by decide +kernel

/-! Validator, multiplexer, transmit framer: V2, V4, V5, V16, V19 to V22. -/

theorem test_validate :
    validate [0xAA, 0x55, 1, 1, 0x22, 0xDB, 0x88] = .isMatch ∧
    validate [0xAA, 0x55, 1, 1, 0x22, 0x88, 0xDB] = .isMismatch ∧
    answers (exec (.validate [0xAA, 0x55, 1, 1, 0x23, 0xDB, 0x88]) start)
      (fun t => t.returns = [.verdict .isMismatch]) = true := by decide +kernel
theorem test_validate_outside_a_candidate :
    validate [0, 0, 1, 1, 0x22, 0xDB, 0x88] = verdictOf [0, 0, 1, 1, 0x22, 0xDB, 0x88] ∧
    verdictOf [0, 0, 1, 1, 0x22, 0xDB, 0x88, 7] = .isMatch ∧
    answers (exec (.validate [0xAA, 0x55, 1, 1, 0x22, 0xDB]) start) (fun t => t.returns.length = 1) = true :=
  ⟨by decide +kernel, by decide +kernel, rfl⟩
theorem test_dispatch_delivers_in_order :
    answers (exec (.dispatch [1, 1, 0xAA]) { start with obs := [2, 1] }) (fun t => t.out =
      [.deliver 2 ⟨1, "PING_REQ", .blob [0xAA]⟩, .deliver 1 ⟨1, "PING_REQ", .blob [0xAA]⟩]) = true := by
  decide +kernel
theorem test_decode_msg_errors :
    decodeMsg v20 [] = .error .lengthMismatch ∧ decodeMsg v20 [1] = .error .lengthMismatch ∧
    decodeMsg v20 [2, 1, 0xAA] = .error .lengthMismatch ∧
    decodeMsg v20 [1, 1, 0xAA, 0xBB] = .error .lengthMismatch ∧
    decodeMsg v20 [2, 0xAB, 0xAA] = .error .opcodeMismatch ∧
    decodeMsg v20 [0, 0xFF] = .error .opcodeMismatch ∧ decodeMsg v20 [0, 0x8D] = .error .opcodeMismatch ∧
    decodeMsg v20 [5, 3, 1, 0x10, 3, 0x10, 8] = .error .lengthMismatch := by decide +kernel
theorem test_mdlist :
    decodeMsg v20 [0x0E, 0x20, 0x01, 0x10, 0x34, 0x12, 0, 1, 2, 3, 4, 5, 6, 7, 8, 9] =
      .ok ⟨0x20, "M", .mdlist [⟨0x1001, []⟩, ⟨0x1234, [0, 1, 2, 3, 4, 5, 6, 7, 8, 9]⟩]⟩ ∧
    decodeMsg v20 [5, 0x20, 0x34, 0x12, 0, 1, 2] = .error .lengthMismatch ∧
    decodeMsg v20 [3, 0x20, 1, 0x10, 2] = .error .lengthMismatch := by decide +kernel
theorem test_fixed_and_nested :
    decodeMsg v20 (16 :: 0x21 :: List.replicate 16 7) = .ok ⟨0x21, "F", .fixed (List.replicate 16 7)⟩ ∧
    decodeMsg v20 (15 :: 0x21 :: List.replicate 15 7) = .error .lengthMismatch ∧
    decodeMsg v20 [5, 0x22, 7, 8, 2, 0xAA, 0xBB] = .ok ⟨0x22, "N", .nested [7, 8, 2] [0xAA, 0xBB]⟩ ∧
    decodeMsg v20 [5, 0x22, 7, 8, 3, 0xAA, 0xBB] = .error .lengthMismatch ∧
    decodeMsg v20 [3, 0x22, 7, 8, 0] = .ok ⟨0x22, "N", .nested [7, 8, 0] []⟩ ∧
    decodeMsg v20 [2, 0x22, 7, 8] = .error .lengthMismatch ∧
    decodeMsg v20 [3, 0x23, 1, 0, 0x77] = .ok ⟨0x23, "W", .nested [1, 0] [0x77]⟩ ∧
    decodeMsg v20 [3, 0x23, 0, 1, 0x77] = .error .lengthMismatch := by decide +kernel
theorem test_deserialize :
    answers (exec (.deserialize [1, 1, 0xAA]) start)
      (fun t => t.returns = [.message ⟨1, "PING_REQ", .blob [0xAA]⟩] && t.out = []) = true := by
  decide +kernel
theorem test_deserialize_error :
    answers (exec (.deserialize [2, 9, 0xAA, 0xBB]) start)
      (fun t => t.returns = [.error .lengthMismatch] && t.status = 0) = true := by decide +kernel
theorem test_decode_as :
    answers (exec (.decodeAs 0x01 [1, 0xAB, 0]) start) (fun t => t.returns = [.error .opcodeMismatch])
      = true := by decide +kernel
theorem test_decode_as_short :
    answers (exec (.decodeAs 0x01 [1]) start) (fun t => t.returns = [.error .lengthMismatch]) = true := by
  decide +kernel
theorem test_register_present_observer :
    answers (exec (.registerObserver 1) start) (fun t => t = start) = true := by decide +kernel
theorem test_unregister_observer :
    answers (exec (.unregisterObserver 1) { start with obs := [3, 1, 2] }) (fun t => t.obs = [3, 2]) = true ∧
    answers (exec (.unregisterObserver 9) start) (fun t => t = start) = true := by decide +kernel
theorem test_serialize :
    answers (exec (.serialize 0x03 (.list16 [0x1001, 0x1003, 0x1008])) start)
      (fun t => t.returns = [.bytes [6, 3, 0x01, 0x10, 0x03, 0x10, 0x08, 0x10]]) = true := by decide +kernel
theorem test_serialize_errors :
    answers (exec (.serialize 0x01 (.blob (List.replicate 256 0))) start)
      (fun t => t.returns = [.error .lengthMismatch]) = true ∧
    answers (exec (.serialize 0xAB .empty) start) (fun t => t.returns = [.error .opcodeMismatch]) = true ∧
    refuses (exec (.serialize 0x09 (.blob [])) start) .notAValue = true := by decide +kernel
theorem test_wrap :
    answers (exec (.wrap [2, 9, 0xAA, 0xBB]) start)
      (fun t => t.returns = [.bytes [0xAA, 0x55, 2, 9, 0xAA, 0xBB, 0x03, 0x57]]) = true := by decide +kernel
theorem test_wrap_refuses_no_msg :
    refuses (exec (.wrap [2, 9, 0xAA]) start) .notAMsg = true := by decide +kernel
theorem test_send :
    answers (exec (.send 0xFF (.blob [])) start)
      (fun t => t.tx = [[0xAA, 0x55, 0, 0xFF, 0x0F, 0x82]] && t.returns = []) = true := by decide +kernel
theorem test_send_error :
    answers (exec (.send 0xAB .empty) start)
      (fun t => t.tx = [] && t.returns = [.error .opcodeMismatch]) = true := by decide +kernel

/-! The step. -/

theorem test_step_runs_a_placed_frame :
    answers (step (State.reset.withFetchWord 32 0xAA550001)) (fun t => t.ph = .hunt && t.status = 1) = true := by
  decide +kernel
theorem test_step_takes_a_byte :
    answers (step { start with inbox := [.chunk [0xAA], .event .reset []] })
      (fun t => t.ph = .hunt55 && t.inbox = [.event .reset []]) = true := by decide +kernel
theorem test_step_takes_one_byte_of_a_whole_frame :
    answers (step { start with inbox := [.chunk [0xAA, 0x55, 0, 9, 0x3B, 0x80]] })
      (fun t => t.ph = .hunt55 && t.inbox = [.chunk [0x55, 0, 9, 0x3B, 0x80]] && t.out = []) = true := by
  decide +kernel
theorem test_step_refuses_no_instruction :
    refuses (step { start with inbox := [.event .reset [1]] }) (.undecodable .operandForm) = true := by
  decide +kernel

/-! Witnesses: states and operands that meet the hypotheses of each statement, one for each clause. The states have
no observer, the capacity being a parameter (log 7). -/

/-- A state of the source's frame, without observers. -/
def bare (s : State) : State := { s with obs := [] }

/-- The state after AA 55 00 (V8, P2). -/
def shortestOpc : State := { State.reset with ph := .opc, fb := [(0, 0)], fbn := 1, crc := 0xFD02 }

theorem test_witness_inv_reset : Inv State.reset :=
  ⟨by decide, by decide, by decide, by decide, Nat.zero_le _, trivial⟩
theorem test_witness_inv_hunt55 : Inv { State.reset with ph := .hunt55 } :=
  ⟨by decide, by decide, by decide, by decide, Nat.zero_le _, trivial⟩
theorem test_witness_inv_len : Inv (bare atLen) :=
  ⟨by decide, by decide, by decide, by decide, Nat.zero_le _, rfl, rfl⟩
theorem test_witness_inv_opc : Inv (bare atOpc) :=
  ⟨by decide, by decide, by decide, by decide, Nat.zero_le _, rfl, rfl, [1], rfl, rfl, by decide +kernel⟩
theorem test_witness_inv_pay : Inv (bare atPay) :=
  ⟨by decide, by decide, by decide, by decide, Nat.zero_le _, by decide, by decide, [1, 1], rfl, rfl,
    by decide +kernel⟩
theorem test_witness_inv_crclo : Inv (bare atCrclo) :=
  ⟨by decide, by decide, by decide, by decide, Nat.zero_le _, by decide, by decide, [1, 1, 0x22], rfl, rfl,
    by decide +kernel⟩
theorem test_witness_inv_crchi : Inv (bare atCrchi) :=
  ⟨by decide, by decide, by decide, by decide, Nat.zero_le _, by decide, by decide, [1, 1, 0x22], rfl, rfl,
    by decide +kernel⟩

/-- HuntByteStep, Hunt55ByteStep and HeaderAndTrailerLowByteSteps ask for the phase only. -/
theorem test_witness_phases :
    start.ph = .hunt ∧ ({ start with ph := .hunt55 } : State).ph = .hunt55 ∧ atLen.ph = .len ∧
    atOpc.ph = .opc ∧ atCrclo.ph = .crclo := by decide

/-- PayloadByteStep, at the first and at the last payload byte of the longest frame. -/
theorem test_witness_payload_byte :
    (atPay.ph = .pay ∧ atPay.cnt.toNat < atPay.len.toNat) ∧
    ({ atPay with len := 255, cnt := 254 } : State).cnt.toNat
      < ({ atPay with len := 255, cnt := 254 } : State).len.toNat := by decide

/-- TrailerHighByteStep, with a trailer that matches and one that does not. -/
theorem test_witness_trailer_high_byte :
    atCrchi.ph = .crchi ∧ atCrchi.fbn.toNat ≤ 257 ∧
    Memory.readN atCrchi.fb 0 atCrchi.fbn.toNat = some [1, 1, 0x22] ∧
    atCrchi.crc = ((0x88 : Byte).setWidth 16 <<< 8) ||| atCrchi.crcLo.setWidth 16 ∧
    atCrchi.crc ≠ ((0x89 : Byte).setWidth 16 <<< 8) ||| atCrchi.crcLo.setWidth 16 := by decide +kernel

/-- FrameBufferAccessFaults: its three clauses. -/
theorem test_witness_frame_buffer_access_faults :
    (∃ s : State, s.ph = .pay ∧ s.cnt = 255) ∧ (∃ s : State, s.ph = .crchi ∧ 257 < s.fbn.toNat) ∧
    ∃ s : State, s.ph = .crchi ∧ s.fbn.toNat ≤ 257 ∧ ∃ a < s.fbn.toNat, Memory.read s.fb a = none :=
  ⟨⟨{ atPay with cnt := 255 }, by decide⟩, ⟨{ atCrchi with fbn := 258 }, by decide⟩,
    ⟨{ atCrchi with fbn := 257 }, rfl, by decide, 256, by decide, rfl⟩⟩

/-- PhaseRowsRefuseOtherPhases. -/
theorem test_witness_other_phase : start.ph ≠ .pay := by decide

/-- RxChunkIsItsBytesInOrder: a byte that has a next state. -/
theorem test_witness_rx_byte_next : ∃ t, exec (.rxByte 0xAA) start = .next t := ⟨_, rfl⟩

/-- CandidateTakesExactlyItsLength: one byte short of the candidate's end, and at its end, for LENGTH 1 and for the
shortest candidate, LENGTH 0. -/
theorem test_witness_candidate_length :
    (Inv (bare atOpc) ∧ (bare atOpc).ph = .opc) ∧
    ([1, 0x22, 0xDB] : List Byte).length < (bare atOpc).len.toNat + 3 ∧
    ([1, 0x22, 0xDB, 0x88] : List Byte).length = (bare atOpc).len.toNat + 3 ∧
    (Inv shortestOpc ∧ shortestOpc.ph = .opc) ∧ ([9, 0x3B] : List Byte).length < shortestOpc.len.toNat + 3 ∧
    ([9, 0x3B, 0x80] : List Byte).length = shortestOpc.len.toNat + 3 :=
  ⟨⟨test_witness_inv_opc, rfl⟩, by decide, by decide,
    ⟨⟨by decide, by decide, by decide, by decide, Nat.zero_le _, rfl, rfl, [0], rfl, rfl, by decide +kernel⟩, rfl⟩,
    by decide, by decide⟩

/-- The frames: an empty payload and one of 255 bytes, each with its CRC, from phase HUNT. -/
theorem test_witness_ping_frame :
    start.ph = .hunt ∧ (List.replicate 255 (0 : Byte)).length ≤ 255 ∧
    (∃ crcl crch : Byte, u16le crcl crch = crc16 (BitVec.ofNat 8 255 :: 0x01 :: List.replicate 255 0)) ∧
    u16le 0x08 0x00 = crc16 (BitVec.ofNat 8 0 :: 0x01 :: []) :=
  ⟨rfl, by decide, ⟨lowByte (crc16 (255 :: 0x01 :: List.replicate 255 0)),
    highByte (crc16 (255 :: 0x01 :: List.replicate 255 0)), by decide +kernel⟩, by decide +kernel⟩

/-- DeviceInitFrameIsDeliveredOrDropped: three identifiers (V22), none, 127 of them, an odd payload. -/
theorem test_witness_device_init_frame :
    u16le 0x57 0x93 = crc16 (msg 0x03 (([0x1001, 0x1003, 0x1008] : List Word).flatMap
      fun v => [lowByte v, highByte v])) ∧
    (List.replicate 127 (0 : Word)).length ≤ 127 ∧
    (∃ crcl crch : Byte, u16le crcl crch = crc16 (msg 0x03 [0x01])) ∧
    ([0x01] : List Byte).length % 2 = 1 :=
  ⟨by decide +kernel, by decide, ⟨lowByte (crc16 (msg 0x03 [0x01])), highByte (crc16 (msg 0x03 [0x01])),
    by decide +kernel⟩, rfl⟩

/-- ZeroArgFrameIsDeliveredOrDropped: without and with a payload (V4, V22). -/
theorem test_witness_zero_arg_frame :
    u16le 0x3B 0x80 = crc16 (msg 0x09 []) ∧ u16le 0x03 0x57 = crc16 (msg 0x09 [0xAA, 0xBB]) := by
  decide +kernel

/-- GenericFrameIsDropped and UnassignedAndTableRowFrames: no row, a row that accepts, a row that rejects. -/
theorem test_witness_generic_unassigned_table_row :
    u16le 0x0F 0x82 = crc16 (msg 0xFF []) ∧ u16le 0xF4 0x03 = crc16 (msg 0xAB []) ∧
    lookup Config.params 0xAB = none ∧
    (u16le 0xDB 0x88 = crc16 (msg 0x01 [0x22]) ∧ lookup Config.params 0x01 = some pingReqRow ∧
      parseFields Config.params .blob [0x22] = some (.blob [0x22])) ∧
    lookup Config.params 0x09 = some zeroArgReq09Row ∧
    parseFields Config.params .zero [0xAA, 0xBB] = none := by decide +kernel

/-- FrameWithBadCrcIsDropped, a FRAME row of each kind of encoding. -/
theorem test_witness_bad_crc_frame :
    encode (.pingReq [0x22] 0xDB 0x89) = .frame (frame 0x01 [0x22] 0xDB 0x89) ∧
    u16le 0xDB 0x89 ≠ crc16 (msg 0x01 [0x22]) ∧
    encode (.unassigned 0xAB [] 0 0) = .frame (frame 0xAB [] 0 0) ∧
    u16le 0 0 ≠ crc16 (msg 0xAB []) := by decide +kernel

/-- ExtractFramesFollowsItsLoop: a buffer without a preamble, a short one, an incomplete candidate, and one of
exactly its length. -/
theorem test_witness_extract_frames :
    (∀ p, ¬ FirstPreamble [] p) ∧ FirstPreamble [0x00, 0xAA, 0x55, 0, 9, 0x3B] 1 ∧
    (([0x00, 0xAA, 0x55, 0, 9, 0x3B] : List Byte).drop 1).length < 6 ∧
    FirstPreamble [0xAA, 0x55, 1, 9, 0x3B, 0x80] 0 ∧
    (([0xAA, 0x55, 1, 9, 0x3B, 0x80] : List Byte).drop 0).length <
      6 + (([0xAA, 0x55, 1, 9, 0x3B, 0x80] : List Byte).getD (0 + 2) 0).toNat ∧
    FirstPreamble [0xAA, 0x55, 0, 9, 0x3B, 0x80] 0 ∧
    6 + 0 ≤ (([0xAA, 0x55, 0, 9, 0x3B, 0x80] : List Byte).drop 0).length :=
  ⟨fun p h => by simp [FirstPreamble] at h, ⟨by decide, by decide⟩, by decide, ⟨by decide, by decide⟩,
    by decide, ⟨by decide, by decide⟩, by decide⟩

/-- StepKeepsTheInvariant, StepNeverFaultsUnderTheInvariant: a byte waiting in the middle of a frame, with the
next state it has. -/
theorem test_witness_step_keeps_the_invariant :
    Inv { bare atCrchi with inbox := [.chunk [0x88]] } ∧
    ∃ t, step { bare atCrchi with inbox := [.chunk [0x88]] } = .next t :=
  ⟨⟨test_witness_inv_crchi.memory, test_witness_inv_crchi.count, test_witness_inv_crchi.filled,
    test_witness_inv_crchi.observers, test_witness_inv_crchi.capacity, test_witness_inv_crchi.phase⟩, _, rfl⟩

/-- StatusFlagsAreSticky, ObserversChangeOnlyByTheirOperations, OutputsOnlyGrow,
ReceiveStateIsTheReceiversAlone, DirectCallsUseNoState. -/
theorem test_witness_next_states :
    (∃ t, exec (.rxHunt 0x00) start = .next t) ∧ (∃ t, exec (.dispatch [0, 0xAB]) start = .next t) ∧
    (∃ t, exec (.registerObserver 1) start = .next t) ∧ (∃ t, exec .reset start = .next t) ∧
    isReceive (.dispatch [0, 0xAB]) = false ∧ isDirectCall (.wrap [0, 9]) = true :=
  ⟨⟨_, rfl⟩, ⟨_, rfl⟩, ⟨_, rfl⟩, ⟨_, rfl⟩, rfl, rfl⟩

/-- PhaseRowsStoreAtMostOneByte, the storing rows. -/
theorem test_witness_phase_rows :
    (∃ t, exec (phaseRow .len 1) atLen = .next t) ∧ (∃ t, exec (phaseRow .opc 1) atOpc = .next t) ∧
    ∃ t, exec (phaseRow .pay 1) atPay = .next t := ⟨⟨_, rfl⟩, ⟨_, rfl⟩, ⟨_, rfl⟩⟩

/-- OpcodePartition: both ends of each range. -/
theorem test_witness_opcode_partition :
    0x8D ≤ (0x8D : Byte).toNat ∧ 0x8D ≤ (0xFF : Byte).toNat ∧
    ((0x8C : Byte) ≠ 0x00 ∧ (0x8C : Byte).toNat ≤ 0x8C ∧ (0x8C : Byte) ≠ 0x01 ∧ (0x8C : Byte) ≠ 0x03 ∧
      (0x8C : Byte) ≠ 0x09) ∧
    (0x02 : Byte).toNat ≤ 0x8C := by decide

/-- FixedRowMessagesAreCoded: the most identifiers, an odd LENGTH, a LENGTH that is not 0. -/
theorem test_witness_fixed_rows :
    (List.replicate 127 (0x1001 : Word)).length ≤ 127 ∧
    (([1, 2, 3] : List Byte).length = (3 : Byte).toNat ∧ (3 : Byte).toNat % 2 = 1) ∧
    ([7] : List Byte).length = (1 : Byte).toNat ∧ (1 : Byte) ≠ 0 := by decide

/-- ShapesAcceptExactlyTheirEncodings has no hypothesis; SerializeThenDecodeGivesTheMessage and
DecodedMessageSerializesBack, at a NESTED row. -/
theorem test_witness_serialize_then_decode :
    lookup v20 0x22 = some ⟨"N", .request, .nested ⟨3, 2, .one, by decide⟩⟩ ∧
    SubLengthAgrees (.nested ⟨3, 2, .one, by decide⟩) (.nested [7, 8, 2] [0xAA, 0xBB]) ∧
    serializeMsg v20 0x22 (.nested [7, 8, 2] [0xAA, 0xBB]) = .bytes [5, 0x22, 7, 8, 2, 0xAA, 0xBB] ∧
    decodeMsg v20 [5, 0x22, 7, 8, 2, 0xAA, 0xBB] = .ok ⟨0x22, "N", .nested [7, 8, 2] [0xAA, 0xBB]⟩ := by
  refine ⟨rfl, rfl, ?_, ?_⟩ <;> decide +kernel

/-- ShapesHaveTheirBytes: an odd LIST16 payload, a descriptor of each kind and a wrong one, NESTED(3, 2, 1) and NESTED(2, 0, 2). -/
theorem test_witness_shapes :
    ([0x01] : List Byte).length % 2 = 1 ∧
    (∀ d ∈ ([⟨0x1001, []⟩, ⟨0x1234, List.replicate 10 7⟩] : List ModelDesc),
      d.config.length = if d.modelId = v20.sensorSetupModelId then 10 else 0) ∧
    (∃ d ∈ ([⟨0x1234, []⟩] : List ModelDesc),
      d.config.length ≠ if d.modelId = v20.sensorSetupModelId then 10 else 0) ∧
    (([7, 8] : List Byte).length = 2 ∧ ([7, 8] : List Byte).length + 1 + ([] : List Byte).length = 3) ∧
    ([] : List Byte).length + 2 + ([] : List Byte).length = 2 := by decide

/-- DeserializeAnswers and DecodeAsChecksTheOpcode: a message, an error, a short buffer, another opcode. -/
theorem test_witness_direct_decode :
    decodeMsg Config.params [0, 9] = .ok ⟨9, "ZERO_ARG_REQ_09", .empty⟩ ∧
    decodeMsg Config.params [0, 0xFF] = .error .opcodeMismatch ∧ ([1] : List Byte).length < 2 ∧
    (0xAB : Byte) ≠ 0x01 := by decide +kernel

/-- ValidateComparesTheTrailer and WrapFramesTheMessage: LENGTH 0, 1 and 255. -/
theorem test_witness_candidate_and_msg :
    ([] : List Byte).length = (0 : Byte).toNat ∧ ([0x22] : List Byte).length = (1 : Byte).toNat ∧
    (List.replicate 255 (0 : Byte)).length = (255 : Byte).toNat := by decide

/-- OperandsOutsideTheirDomain, SerializeAnswers, SendHandsOverOneFrame: their clauses. -/
theorem test_witness_transmit :
    (([0x22] : List Byte).length = (1 : Byte).toNat ∧ ([0xAA, 0x55, 1, 9, 0, 0] : List Byte).length <
      6 + (([0xAA, 0x55, 1, 9, 0, 0] : List Byte).getD 2 0).toNat ∧ ([] : List Byte).length < 6) ∧
    (([9] : List Byte).length ≠ (0 : Byte).toNat ∧ ∀ l op : Byte, ∀ c, ([0] : List Byte) ≠ l :: op :: c) ∧
    (encodeRow Config.params 0x09 = some zeroArgReq09Row ∧
      encodeFields Config.params .zero (.blob []) = none) ∧
    encodeRow Config.params 0xAB = none ∧
    (encodeRow Config.params 0xFF = some genericRow ∧
      encodeFields Config.params .blob (.blob (List.replicate 256 0)) = some (List.replicate 256 0) ∧
      encodeFields Config.params .blob (.blob (List.replicate 255 0)) = some (List.replicate 255 0)) ∧
    serializeMsg Config.params 0x09 .empty = .bytes [0, 9] ∧
    serializeMsg Config.params 0xAB .empty = .error .opcodeMismatch := by
  refine ⟨by decide, ⟨by decide, by simp⟩, ?_⟩
  decide +kernel

/-- RegisterAndUnregister: an observer that is absent. -/
theorem test_witness_absent_observer : 2 ∉ start.obs := by decide

/-- WrappedMessageIsExtracted and SentMessageIsDelivered. -/
theorem test_witness_sent_message :
    isMsg [1, 1, 0x22] = true ∧ start.ph = .hunt ∧ (0x01 : Byte) ≠ 0xFF ∧
    lookup Config.params 0x01 = some pingReqRow ∧ SubLengthAgrees .blob (.blob [0x22]) ∧
    serializeMsg Config.params 0x01 (.blob [0x22]) = .bytes [1, 1, 0x22] := by
  refine ⟨rfl, rfl, ?_, ?_, trivial, ?_⟩ <;> decide +kernel

/-- DecodeInvertsEncode, DecodedInputIsItsEncoding. -/
theorem test_witness_decode_and_encode :
    (Instr.unassigned 0x8D (List.replicate 255 0) 1 2).WellFormed ∧ (Instr.wrap [0, 9]).WellFormed ∧
    decode (.frame [0xAA, 0x55, 0, 9, 0x3B, 0x80, 0x77]) = .ok (.zeroArgReq09 [] 0x3B 0x80, [0x77]) := by
  decide +kernel

/-- StepRunsTheDecodedInstruction: its six clauses; QueuedChunkRunsToItsBytes. -/
theorem test_witness_step_clauses :
    start.inbox = [] ∧ ({ start with inbox := [.chunk []] } : State).inbox = .chunk [] :: [] ∧
    ({ start with inbox := [.chunk [1]] } : State).inbox = .chunk [1] :: [] ∧
    ({ start with inbox := [.chunk [1, 2]] } : State).inbox = .chunk [1, 2] :: [] ∧
    decode (.frame [0xAA, 0x55, 0, 9, 0x3B, 0x80, 7]) = .ok (.zeroArgReq09 [] 0x3B 0x80, [7]) ∧
    decode (.event .reset []) = .ok (.reset, []) ∧ Input.event .reset [1] ≠ .chunk [] ∧
    decode (.event .reset [1]) = .error .operandForm ∧ ([1] : List Byte) ≠ [] := by decide +kernel

end Sys2Proof.Tests
end

section
/-! PROOFS. The CRC generator (40_crc.md): CRC16 as a loop of CRC_BYTE. -/

namespace Sys2Proof.Machine

/-- R132's loop: one CRC_BYTE per byte, first byte first, from the initial value of R130. -/
theorem crc16_eq_foldl (bytes : List Byte) : crc16 bytes = bytes.foldl crcByte 0xFFFF := rfl

/-- The row CRC16 appends its result to the answers and does nothing else. -/
theorem exec_crc16 (bytes : List Byte) (s : State) :
    exec (.crc16 bytes) s = .next (s.answer (.crc (crc16 bytes))) := rfl

@[simp] theorem crc16_nil : crc16 [] = 0xFFFF := rfl

/-- R132's dependence on the number of bytes: the initial value is not zero, so a leading zero byte counts. -/
theorem crc16_leading_zero_ne : crc16 [0x00, 0x01] ≠ crc16 [0x01] := by decide +kernel

/-- R132's dependence on the order of the bytes. -/
theorem crc16_swapped_ne : crc16 [0x00, 0x01] ≠ crc16 [0x01, 0x00] := by decide +kernel

/-- R132's example, the bytes covered in the source's own wire frame. -/
theorem crc16_example : crc16 [0x01, 0x01, 0x22] = 0x88DB := by decide +kernel

/-- Settles O1: CRC16 answers the loop over the bytes, whatever the state; its corner cases and its example are
values of that loop. -/
theorem crc16RunsOverTheBytes : Obligations.Crc16RunsOverTheBytes := by
  refine ⟨fun s bytes => ?_, crc16_nil, crc16_leading_zero_ne, crc16_swapped_ne, crc16_example⟩
  rw [exec_crc16, crc16_eq_foldl, State.answer]

end Sys2Proof.Machine
end

section
/-! PROOFS. The byte-serial reassembler (41_reassembler.md section 2): the rows RX_BYTE.<phase>, each in the phase
that selects it. -/

namespace Sys2Proof.Machine

/-- R158: in the phase that selects it, a row RX_BYTE.<phase> is that phase's rule. -/
theorem inPhase_of_ph {s : State} {q : Phase} (h : s.ph = q)
    (f : State → Host.Outcome State Fault Refusal) : inPhase q f s = f s := if_pos h

/-- Phase HUNT always has a next state: the first preamble byte is taken, any other is discarded (R151). -/
theorem rxHunt_eq (b : Byte) (s : State) :
    rxHunt b s = .next
      (if b = preamble0 then { s with ph := .hunt55 }
       else { s with out := s.out ++ [.logSkip b], status := s.status ||| skipFlag }) := by
  unfold rxHunt
  split_ifs <;> rfl

/-- A payload byte of a candidate has its place in the frame buffer: `cnt` below `len` is at most 254, so the
address is at most 256 (R24, R63). -/
theorem payloadAddress_lt_fbSize {s : State} (h : s.cnt.toNat < s.len.toNat) :
    2 + s.cnt.toNat < fbSize := by
  have hlen : s.len.toNat < 256 := s.len.isLt
  unfold fbSize
  omega

/-- Settles O7: HUNT takes 0xAA as the first preamble byte and discards any other byte with its event and SKIP. -/
theorem huntByteStep : Obligations.HuntByteStep := by
  intro s b hph
  exact (inPhase_of_ph hph (rxHunt b)).trans (rxHunt_eq b s)

/-- Settles O9: addresses 0 and 1 exist in the frame buffer, so LEN and OPC always store their byte; CRCLO stores
none. -/
theorem headerAndTrailerLowByteSteps : Obligations.HeaderAndTrailerLowByteSteps := by
  intro s b
  refine ⟨fun hph => ?_, fun hph => ?_, fun hph => ?_⟩
  · exact (inPhase_of_ph hph (rxLen b)).trans (rxLen_eq b s)
  · exact (inPhase_of_ph hph (rxOpc b)).trans (rxOpc_eq b s)
  · exact inPhase_of_ph hph (rxCrclo b)

/-- Settles O10: with `cnt` below `len` the store's address is inside the frame buffer, so PAY has its step. -/
theorem payloadByteStep : Obligations.PayloadByteStep := by
  intro s b hph hcnt
  exact (inPhase_of_ph hph (rxPay b)).trans (rxPay_eq (payloadAddress_lt_fbSize hcnt) b)

end Sys2Proof.Machine
end

section
/-! PROOFS. The check of a candidate (42_validator.md): what VALIDATE reads and what it answers. -/

namespace Sys2Proof.Machine

/-- R91's layout: behind the preamble stand the bytes the CRC covers, `s[2:4+L)`. -/
theorem slice_covered {l : Byte} {payload : List Byte} (h : payload.length = l.toNat)
    (b0 b1 op : Byte) (trailer : List Byte) :
    slice (b0 :: b1 :: l :: op :: (payload ++ trailer)) 2 (4 + l.toNat) = l :: op :: payload := by
  have hlen : (l :: op :: payload).length = 4 + l.toNat - 2 := by
    simp only [List.length_cons]
    omega
  exact List.take_left' (l₁ := l :: op :: payload) hlen

/-- R91's layout: the bytes behind the payload stand from position 4 + L on. -/
theorem getD_trailer {l : Byte} {payload : List Byte} (h : payload.length = l.toNat)
    (b0 b1 op : Byte) (trailer : List Byte) (i : Nat) :
    (b0 :: b1 :: l :: op :: (payload ++ trailer)).getD (4 + i + l.toNat) 0 = trailer.getD i 0 := by
  have hi : 4 + i + l.toNat = payload.length + i + 4 := by omega
  rw [hi]
  simp only [List.getD_cons_succ]
  rw [List.getD_append_right _ _ _ _ (Nat.le_add_right _ _), Nat.add_sub_cancel_left]

/-- R182: the pseudocode checks the CRC of LENGTH, OPCODE and PAYLOAD against the trailer, low byte first. It reads
neither of the first two bytes and nothing behind the trailer. -/
theorem validate_eq_check {l : Byte} {payload : List Byte} (h : payload.length = l.toNat)
    (b0 b1 op crcl crch : Byte) (after : List Byte) :
    validate (b0 :: b1 :: l :: op :: (payload ++ crcl :: crch :: after)) =
      check (crc16 (l :: op :: payload)) (u16le crcl crch) := by
  have hlo := getD_trailer h b0 b1 op (crcl :: crch :: after) 0
  have hhi := getD_trailer h b0 b1 op (crcl :: crch :: after) 1
  exact congrArg₂ check (congrArg crc16 (slice_covered h b0 b1 op _)) (congrArg₂ u16le hlo hhi)

/-- R11: where the 6 + L bytes the pseudocode reads from are there, VALIDATE answers what it says. -/
theorem verdictOf_of_length_le {cand : List Byte}
    (h : minFrame + (cand.getD 2 0).toNat ≤ cand.length) : verdictOf cand = validate cand := if_pos h

/-- The answer to bytes that hold a whole candidate from their first position on. -/
theorem verdictOf_eq_check {l : Byte} {payload : List Byte} (h : payload.length = l.toNat)
    (b0 b1 op crcl crch : Byte) (after : List Byte) :
    verdictOf (b0 :: b1 :: l :: op :: (payload ++ crcl :: crch :: after)) =
      check (crc16 (l :: op :: payload)) (u16le crcl crch) := by
  refine (verdictOf_of_length_le ?_).trans (validate_eq_check h b0 b1 op crcl crch after)
  simp only [minFrame, List.getD_cons_succ, List.getD_cons_zero, List.length_cons, List.length_append]
  omega

/-- The row VALIDATE appends its verdict to the answers and does nothing else. -/
theorem exec_validate (cand : List Byte) (s : State) :
    exec (.validate cand) s = .next (s.answer (.verdict (verdictOf cand))) := rfl

/-- R182's example: the frame of a PING_REQ, with any trailer. -/
theorem validate_pingReq (crcl crch : Byte) :
    validate [0xAA, 0x55, 0x01, 0x01, 0x22, crcl, crch] = check 0x88DB (u16le crcl crch) := by
  rw [← crc16_example]
  exact validate_eq_check (l := 0x01) (payload := [0x22]) rfl 0xAA 0x55 0x01 crcl crch []

/-- Settles O45: the verdict on a candidate is CHECK of the covered bytes' CRC and the trailer read low byte first,
and CHECK is equality of the 16 bits, so the same trailer with its bytes exchanged is a mismatch. -/
theorem validateComparesTheTrailer : Obligations.ValidateComparesTheTrailer := by
  refine ⟨fun s l op crcl crch payload h => ?_, ?_, ?_, fun c rx => rfl, by decide⟩
  · rw [exec_validate, verdictOf_eq_check h, State.answer, check, u16le]
  · rw [validate_pingReq]
    decide
  · rw [validate_pingReq]
    decide

end Sys2Proof.Machine
end

section
/-! PROOFS. DECODE_AS (43_mux.md section 3). -/

namespace Sys2Proof.Machine

/-- R221: a buffer without an opcode byte has the wrong size. -/
theorem decodeMsgAs_of_length_lt_two (p : Params) (x : Byte) :
    ∀ {buf : List Byte}, buf.length < 2 → decodeMsgAs p x buf = .error .lengthMismatch
  | [], _ => rfl
  | [_], _ => rfl
  | _ :: _ :: c, h => absurd h (by simp)

/-- R221: the opcode byte is compared before anything else of the message is looked at. -/
theorem decodeMsgAs_of_ne (p : Params) {x op : Byte} (h : op ≠ x) (l : Byte) (payload : List Byte) :
    decodeMsgAs p x (l :: op :: payload) = .error .opcodeMismatch := if_neg h

/-- R221: with the expected opcode, DECODE_AS is DECODE. -/
theorem decodeMsgAs_same (p : Params) (x l : Byte) (payload : List Byte) :
    decodeMsgAs p x (l :: x :: payload) = decodeMsg p (l :: x :: payload) := if_pos rfl

/-- The row DECODE_AS appends its result to the answers and does nothing else. -/
theorem exec_decodeAs (x : Byte) (buf : List Byte) (s : State) :
    exec (.decodeAs x buf) s = .next (s.answer (decodeResult (decodeMsgAs Config.params x buf))) := rfl

/-- Settles O44: the size of the header, then the opcode byte, then DECODE. -/
theorem decodeAsChecksTheOpcode : Obligations.DecodeAsChecksTheOpcode := by
  refine ⟨fun s x buf h => ?_, fun s x l op payload h => ?_, fun s x l payload => ?_⟩
  · rw [exec_decodeAs, decodeMsgAs_of_length_lt_two _ _ h]
    rfl
  · rw [exec_decodeAs, decodeMsgAs_of_ne _ h]
    rfl
  · rw [exec_decodeAs, decodeMsgAs_same]
    cases decodeMsg Config.params (l :: x :: payload) <;> rfl

end Sys2Proof.Machine
end

section
/-! PROOFS. Messages of a row of OPCODE_TABLE as bytes and back (43_mux.md R201, R205; 44_tx_framer.md R240), and the
rows DEVICE_INIT_EVT and ZERO_ARG_REQ_09 (R211, R212). -/

namespace Sys2Proof.Machine

/-- R106: the row of 0x03 is the same in every OPCODE_TABLE. -/
@[simp] theorem lookup_deviceInitEvt (p : Params) : lookup p 0x03 = some deviceInitEvtRow := rfl

/-- R106: the row of 0x09 is the same in every OPCODE_TABLE. -/
@[simp] theorem lookup_zeroArgReq09 (p : Params) : lookup p 0x09 = some zeroArgReq09Row := rfl

/-- SERIALIZE uses the table's own row at every opcode but GENERIC's. -/
theorem encodeRow_of_ne (p : Params) {op : Byte} (h : op ≠ opcodeGeneric) :
    encodeRow p op = lookup p op := if_neg h

/-- R201: with a row for the opcode and a payload of LENGTH bytes, DECODE is the row's PARSE. -/
theorem decodeMsg_of_lookup {p : Params} {l op : Byte} {e : Row} {payload : List Byte}
    (he : lookup p op = some e) (hlen : payload.length = l.toNat) :
    decodeMsg p (l :: op :: payload) = parse p e op payload := by
  simp only [decodeMsg, he, if_pos hlen]

/-- R205: fields read from the payload make the message. -/
theorem parse_of_some {p : Params} {e : Row} {payload : List Byte} {fields : Fields}
    (h : parseFields p e.shape payload = some fields) (op : Byte) :
    parse p e op payload = .ok ⟨op, e.name, fields⟩ := by
  simp only [parse, h]

/-- R205: a payload the shape refuses is LengthMismatch. -/
theorem parse_of_none {p : Params} {e : Row} {payload : List Byte}
    (h : parseFields p e.shape payload = none) (op : Byte) :
    parse p e op payload = .error .lengthMismatch := by
  simp only [parse, h]

/-- R240: fields whose bytes fit in a payload are serialized to the MSG of those bytes. -/
theorem serializeMsg_of_encodeFields {p : Params} {op : Byte} {e : Row} {fields : Fields} {body : List Byte}
    (he : encodeRow p op = some e) (hb : encodeFields p e.shape fields = some body)
    (hlen : body.length ≤ maxLength) : serializeMsg p op fields = .bytes (msg op body) := by
  simp only [serializeMsg, he, hb, if_neg hlen.not_gt]

/-- The bytes of a list of identifiers, each low byte first (R103). -/
def idBytes (ids : List Word) : List Byte := ids.flatMap fun id => [lowByte id, highByte id]

@[simp] theorem idBytes_length (ids : List Word) : (idBytes ids).length = 2 * ids.length := by
  simp [idBytes, List.length_flatMap, mul_comm]

/-- R10: the two bytes of a 16-bit value, put together low byte first, are the value: bit i comes from the low byte
below 8, from the high byte from 8 on. -/
@[simp] theorem u16le_lowByte_highByte (w : Word) : u16le (lowByte w) (highByte w) = w := by
  ext i hi
  rcases Nat.lt_or_ge i 8 with hlow | hhigh
  · simp [u16le, lowByte, highByte, hlow, BitVec.getLsbD_eq_getElem hi]
  · have hbit : i - 8 < 8 := by omega
    simp [u16le, lowByte, highByte, hhigh.not_gt, hbit, hhigh, BitVec.getLsbD_eq_getElem hi]

/-- R103: LIST16 reads back the identifiers it is written for. -/
theorem parseIds_idBytes (ids : List Word) : parseIds (idBytes ids) = some ids := by
  induction ids with
  | nil => rfl
  | cons w ws ih =>
    change (parseIds (idBytes ws)).map (u16le (lowByte w) (highByte w) :: ·) = _
    rw [ih, u16le_lowByte_highByte, Option.map_some]

/-- R103: a payload of an odd number of bytes leaves a remainder. -/
theorem parseIds_of_odd : ∀ {payload : List Byte}, payload.length % 2 = 1 → parseIds payload = none
  | [], h => absurd h (by decide)
  | [_], _ => rfl
  | _ :: _ :: rest, h => by
    have hrest : rest.length % 2 = 1 := by
      rw [List.length_cons, List.length_cons] at h
      omega
    rw [parseIds, parseIds_of_odd hrest, Option.map_none]

/-- R211: at most 127 identifiers make a DEVICE_INIT_EVT payload, and DECODE reads them. -/
theorem decodeMsg_deviceInitEvt (p : Params) {ids : List Word} (h : ids.length ≤ 127) :
    decodeMsg p (BitVec.ofNat 8 (2 * ids.length) :: 0x03 :: idBytes ids) =
      .ok ⟨0x03, "DEVICE_INIT_EVT", .list16 ids⟩ := by
  have hlen : (idBytes ids).length = (BitVec.ofNat 8 (2 * ids.length)).toNat := by
    rw [idBytes_length, BitVec.toNat_ofNat]
    omega
  rw [decodeMsg_of_lookup (lookup_deviceInitEvt p) hlen]
  exact parse_of_some (e := deviceInitEvtRow) (congrArg (Option.map Fields.list16) (parseIds_idBytes ids)) 0x03

/-- R211: SERIALIZE writes LENGTH, the opcode and the identifiers. -/
theorem serializeMsg_deviceInitEvt (p : Params) {ids : List Word} (h : ids.length ≤ 127) :
    serializeMsg p 0x03 (.list16 ids) = .bytes (BitVec.ofNat 8 (2 * ids.length) :: 0x03 :: idBytes ids) := by
  have hmax : (idBytes ids).length ≤ maxLength := by
    rw [idBytes_length, maxLength]
    omega
  rw [serializeMsg_of_encodeFields (encodeRow_of_ne p (by decide)) rfl hmax, msg, idBytes_length]

/-- R211: no DEVICE_INIT_EVT has an odd LENGTH. -/
theorem decodeMsg_deviceInitEvt_of_odd (p : Params) {l : Byte} {payload : List Byte}
    (hlen : payload.length = l.toNat) (hodd : l.toNat % 2 = 1) :
    decodeMsg p (l :: 0x03 :: payload) = .error .lengthMismatch := by
  rw [decodeMsg_of_lookup (lookup_deviceInitEvt p) hlen]
  exact parse_of_none (e := deviceInitEvtRow)
    (congrArg (Option.map Fields.list16) (parseIds_of_odd (hlen ▸ hodd))) 0x03

/-- R212: the one ZERO_ARG_REQ_09 message, read. -/
theorem decodeMsg_zeroArgReq09 (p : Params) :
    decodeMsg p [0x00, 0x09] = .ok ⟨0x09, "ZERO_ARG_REQ_09", .empty⟩ := by
  rw [decodeMsg_of_lookup (lookup_zeroArgReq09 p) rfl]
  exact parse_of_some (e := zeroArgReq09Row) rfl 0x09

/-- R212: the one ZERO_ARG_REQ_09 message, written. -/
theorem serializeMsg_zeroArgReq09 (p : Params) : serializeMsg p 0x09 .empty = .bytes [0x00, 0x09] :=
  serializeMsg_of_encodeFields (e := zeroArgReq09Row) (body := [])
    (encodeRow_of_ne p (by decide)) rfl (by decide)

/-- R212's frame: the message between the preamble and its CRC. -/
theorem wrapMsg_zeroArgReq09 : wrapMsg [0x00, 0x09] = [0xAA, 0x55, 0x00, 0x09, 0x3B, 0x80] := by
  decide +kernel

/-- R212: no ZERO_ARG_REQ_09 has a payload. -/
theorem decodeMsg_zeroArgReq09_of_ne_zero (p : Params) {l : Byte} {payload : List Byte}
    (hlen : payload.length = l.toNat) (hl : l ≠ 0) :
    decodeMsg p (l :: 0x09 :: payload) = .error .lengthMismatch := by
  have hne : payload ≠ [] := by
    rintro rfl
    exact hl (BitVec.eq_of_toNat_eq hlen.symm)
  rw [decodeMsg_of_lookup (lookup_zeroArgReq09 p) hlen]
  exact parse_of_none (e := zeroArgReq09Row) (if_neg hne) 0x09

/-- Settles O40: both rows are fixed in every table, LIST16 is read and written in pairs and ZERO accepts the empty
payload alone; the examples are values of these. -/
theorem fixedRowMessagesAreCoded : Obligations.FixedRowMessagesAreCoded := by
  intro p
  exact ⟨fun ids h => ⟨decodeMsg_deviceInitEvt p h, serializeMsg_deviceInitEvt p h⟩,
    fun l payload => decodeMsg_deviceInitEvt_of_odd p,
    decodeMsg_deviceInitEvt p (ids := [0x1001, 0x1003, 0x1008]) (by decide),
    decodeMsg_zeroArgReq09 p, serializeMsg_zeroArgReq09 p,
    fun l payload => decodeMsg_zeroArgReq09_of_ne_zero p, wrapMsg_zeroArgReq09,
    fun payload crcl crch => ⟨rfl, rfl⟩⟩

end Sys2Proof.Machine
end

section
/-! PROOFS. The wire form of a MSG (44_tx_framer.md R241): what WRAP puts around it. -/

namespace Sys2Proof.Machine

/-- R96: LENGTH, OPCODE and as many payload bytes as LENGTH says are a well-formed MSG. -/
theorem isMsg_of_length {l : Byte} {payload : List Byte} (h : payload.length = l.toNat) (op : Byte) :
    isMsg (l :: op :: payload) = true := beq_iff_eq.mpr h

/-- R241: in the operand domain of WRAP (U17) the row appends the framed message to the answers and does nothing
else. -/
theorem exec_wrap_of_isMsg {pf : List Byte} (h : isMsg pf = true) (s : State) :
    exec (.wrap pf) s = .next (s.answer (.bytes (wrapMsg pf))) := if_pos h

/-- R241: two preamble bytes before the message and two CRC bytes behind it; nothing is escaped. -/
@[simp] theorem wrapMsg_length (pf : List Byte) : (wrapMsg pf).length = pf.length + 4 := by
  simp only [wrapMsg, List.length_cons, List.length_append, List.length_nil]

/-- R241 on the MSG of R132's example: its CRC 0x88DB travels low byte first. -/
theorem wrapMsg_pingReq :
    wrapMsg [0x01, 0x01, 0x22] = [0xAA, 0x55, 0x01, 0x01, 0x22, 0xDB, 0x88] := by
  rw [wrapMsg, crc16_example]
  decide

/-- Settles O47: a LENGTH that counts the payload makes a MSG, so WRAP answers; what it answers is the message
unchanged between the preamble and the two bytes of its CRC. -/
theorem wrapFramesTheMessage : Obligations.WrapFramesTheMessage := by
  refine ⟨fun s l op payload h => ?_, wrapMsg_length, wrapMsg_pingReq⟩
  rw [exec_wrap_of_isMsg (isMsg_of_length h op)]
  rfl

end Sys2Proof.Machine
end

section
/-! PROOFS. The reference function EXTRACT_FRAMES (41_reassembler.md section 1): its rounds, the induction over them,
and what a cut of the buffer does (section 3). -/

namespace Sys2Proof.Machine

/-- R150 step 1: a buffer that begins with the preamble is its own rest. -/
@[simp] theorem findPreamble_preamble (rest : List Byte) :
    findPreamble (preamble0 :: preamble1 :: rest) = some (preamble0 :: preamble1 :: rest) := by
  simp [findPreamble]

/-- R150 step 1: where the first two bytes are not the preamble, the search goes on one byte later. -/
theorem findPreamble_skip {b0 b1 : Byte} (h : ¬ (b0 = preamble0 ∧ b1 = preamble1)) (rest : List Byte) :
    findPreamble (b0 :: b1 :: rest) = findPreamble (b1 :: rest) := by
  rw [findPreamble]
  exact if_neg h

/-- What is found begins with the preamble and is a last part of the buffer. -/
theorem findPreamble_eq_some : ∀ {buf b : List Byte}, findPreamble buf = some b →
    (∃ rest, b = preamble0 :: preamble1 :: rest) ∧ b.length ≤ buf.length
  | [], _, h => by simp [findPreamble] at h
  | [_], _, h => by simp [findPreamble] at h
  | b0 :: b1 :: rest, b, h => by
    by_cases hp : b0 = preamble0 ∧ b1 = preamble1
    · obtain ⟨rfl, rfl⟩ := hp
      rw [findPreamble_preamble] at h
      cases h
      exact ⟨⟨rest, rfl⟩, le_rfl⟩
    · rw [findPreamble_skip hp] at h
      obtain ⟨hb, hlen⟩ := findPreamble_eq_some h
      exact ⟨hb, hlen.trans (Nat.le_succ _)⟩

/-- The first preamble of what is found is at its own first byte. -/
theorem findPreamble_idem {buf b : List Byte} (h : findPreamble buf = some b) :
    findPreamble b = some b := by
  obtain ⟨⟨rest, rfl⟩, -⟩ := findPreamble_eq_some h
  exact findPreamble_preamble rest

/-- Bytes behind a buffer do not move its first preamble. -/
theorem findPreamble_append : ∀ {buf b : List Byte}, findPreamble buf = some b → ∀ c : List Byte,
    findPreamble (buf ++ c) = some (b ++ c)
  | [], _, h, _ => by simp [findPreamble] at h
  | [_], _, h, _ => by simp [findPreamble] at h
  | b0 :: b1 :: rest, b, h, c => by
    by_cases hp : b0 = preamble0 ∧ b1 = preamble1
    · obtain ⟨rfl, rfl⟩ := hp
      rw [findPreamble_preamble] at h
      cases h
      exact findPreamble_preamble (rest ++ c)
    · rw [findPreamble_skip hp] at h
      exact (findPreamble_skip hp (rest ++ c)).trans (findPreamble_append h c)

/-- The bytes of the candidate that a buffer begins with: 6 + LENGTH (R91). -/
def candidateLength (b : List Byte) : Nat := minFrame + (b.getD 2 0).toNat

/-- The frame a complete candidate gives, if its CRC matches (R150, R182). -/
def candidateFrames (b : List Byte) : List (List Byte) :=
  if validate (b.take (candidateLength b)) = .isMatch then [slice b 2 (4 + (b.getD 2 0).toNat)] else []

/-- Frames put before what the rest of the stream gives. -/
def prependFrames {α : Type} (fs : List (List Byte)) (r : List (List Byte) × α) : List (List Byte) × α :=
  (fs ++ r.1, r.2)

@[simp] theorem prependFrames_nil {α : Type} (r : List (List Byte) × α) : prependFrames [] r = r := rfl

theorem prependFrames_append {α : Type} (fs gs : List (List Byte)) (r : List (List Byte) × α) :
    prependFrames (fs ++ gs) r = prependFrames fs (prependFrames gs r) := by
  simp [prependFrames]

/-- One round of the loop without a preamble in the buffer (R150 step 1). -/
theorem extractLoop_of_none {buf : List Byte} (h : findPreamble buf = none) (n : Nat) :
    extractLoop (n + 1) buf = ([], buf) := by
  simp only [extractLoop, h]

/-- One round of the loop at a candidate cut short (R150 steps 2 and 3). -/
theorem extractLoop_of_short {buf b : List Byte} (h : findPreamble buf = some b)
    (hs : b.length < candidateLength b) (n : Nat) : extractLoop (n + 1) buf = ([], b) := by
  simp only [extractLoop, h]
  split
  · rfl
  · exact if_pos hs

/-- One round of the loop at a complete candidate (R150 steps 4 and 5). -/
theorem extractLoop_of_complete {buf b : List Byte} (h : findPreamble buf = some b)
    (hc : candidateLength b ≤ b.length) (n : Nat) :
    extractLoop (n + 1) buf =
      prependFrames (candidateFrames b) (extractLoop n (b.drop (candidateLength b))) := by
  have hmin : minFrame ≤ b.length := (Nat.le_add_right _ _).trans hc
  simp only [extractLoop, h, candidateFrames]
  rw [if_neg hmin.not_gt, if_neg (show ¬ b.length < minFrame + (b.getD 2 0).toNat from hc.not_gt)]
  unfold candidateLength
  split <;> rfl

/-- A complete candidate is taken from the buffer, so the rest of the stream is shorter. -/
theorem length_drop_candidate_lt {buf b : List Byte} (h : findPreamble buf = some b)
    (hc : candidateLength b ≤ b.length) : (b.drop (candidateLength b)).length < buf.length := by
  have hle := (findPreamble_eq_some h).2
  have hpos : 0 < candidateLength b := Nat.add_pos_left (by decide) _
  rw [List.length_drop]
  omega

/-- Fuel beyond the buffer's length changes nothing. -/
theorem extractLoop_fuel {n m : Nat} {buf : List Byte} (hn : buf.length < n) (hm : buf.length < m) :
    extractLoop n buf = extractLoop m buf := by
  induction n generalizing m buf with
  | zero => exact absurd hn (Nat.not_lt_zero _)
  | succ n ih =>
    obtain ⟨m, rfl⟩ : ∃ k, m = k + 1 := ⟨m - 1, by omega⟩
    cases hb : findPreamble buf with
    | none => rw [extractLoop_of_none hb, extractLoop_of_none hb]
    | some b =>
      rcases lt_or_ge b.length (candidateLength b) with hs | hc
      · rw [extractLoop_of_short hb hs, extractLoop_of_short hb hs]
      · have hlt := length_drop_candidate_lt hb hc
        rw [extractLoop_of_complete hb hc, extractLoop_of_complete hb hc, ih (m := m) (by omega) (by omega)]

theorem extractFrames_of_none {buf : List Byte} (h : findPreamble buf = none) :
    extractFrames buf = ([], buf) := extractLoop_of_none h _

theorem extractFrames_of_short {buf b : List Byte} (h : findPreamble buf = some b)
    (hs : b.length < candidateLength b) : extractFrames buf = ([], b) := extractLoop_of_short h hs _

theorem extractFrames_of_complete {buf b : List Byte} (h : findPreamble buf = some b)
    (hc : candidateLength b ≤ b.length) :
    extractFrames buf =
      prependFrames (candidateFrames b) (extractFrames (b.drop (candidateLength b))) := by
  rw [extractFrames, extractLoop_of_complete h hc, extractFrames,
    extractLoop_fuel (length_drop_candidate_lt h hc) (Nat.lt_succ_self _)]

/-- Garbage before the first preamble plays no part (R150 step 1). -/
theorem extractFrames_of_some {buf b : List Byte} (h : findPreamble buf = some b) :
    extractFrames buf = extractFrames b := by
  have hb := findPreamble_idem h
  rcases lt_or_ge b.length (candidateLength b) with hs | hc
  · rw [extractFrames_of_short h hs, extractFrames_of_short hb hs]
  · rw [extractFrames_of_complete h hc, extractFrames_of_complete hb hc]

/-- Induction over the rounds of EXTRACT_FRAMES (R150). -/
theorem extractFrames_induction {P : List Byte → Prop}
    (none : ∀ buf, findPreamble buf = none → P buf)
    (short : ∀ buf b, findPreamble buf = some b → b.length < candidateLength b → P buf)
    (complete : ∀ buf b, findPreamble buf = some b → candidateLength b ≤ b.length →
      P (b.drop (candidateLength b)) → P buf) (buf : List Byte) : P buf := by
  induction hn : buf.length using Nat.strong_induction_on generalizing buf with
  | _ n ih =>
    subst hn
    cases hb : findPreamble buf with
    | none => exact none buf hb
    | some b =>
      rcases lt_or_ge b.length (candidateLength b) with hs | hc
      · exact short buf b hb hs
      · exact complete buf b hb hc (ih _ (length_drop_candidate_lt hb hc) _ rfl)

/-- R164: a leftover comes back unchanged. -/
theorem extractFrames_leftover (buf : List Byte) :
    extractFrames (extractFrames buf).2 = ([], (extractFrames buf).2) := by
  induction buf using extractFrames_induction with
  | none buf h =>
    rw [extractFrames_of_none h]
    exact extractFrames_of_none h
  | short buf b h hs =>
    rw [extractFrames_of_short h hs]
    exact extractFrames_of_short (findPreamble_idem h) hs
  | complete buf b h hc ih =>
    rw [extractFrames_of_complete h hc]
    exact ih

/-- The candidate a buffer holds completely is the same with bytes behind it. -/
theorem candidate_append {b : List Byte} (hc : candidateLength b ≤ b.length) (c : List Byte) :
    candidateLength (b ++ c) = candidateLength b ∧ candidateFrames (b ++ c) = candidateFrames b := by
  have hmin : minFrame ≤ b.length := (Nat.le_add_right _ _).trans hc
  have h2 : 2 < b.length := lt_of_lt_of_le (by decide) hmin
  have hlen : candidateLength (b ++ c) = candidateLength b := by
    rw [candidateLength, List.getD_append _ _ _ _ h2, candidateLength]
  refine ⟨hlen, ?_⟩
  have hslice : slice (b ++ c) 2 (4 + (b.getD 2 0).toNat) = slice b 2 (4 + (b.getD 2 0).toNat) := by
    unfold candidateLength minFrame at hc
    rw [slice, slice, List.drop_append_of_le_length h2.le, List.take_append_of_le_length]
    rw [List.length_drop]
    omega
  rw [candidateFrames, hlen, List.take_append_of_le_length hc, List.getD_append _ _ _ _ h2, hslice, candidateFrames]

/-- R162: a buffer in two parts is its first part, and then that part's leftover before the second. -/
theorem extractFrames_append (a c : List Byte) :
    extractFrames (a ++ c) =
      prependFrames (extractFrames a).1 (extractFrames ((extractFrames a).2 ++ c)) := by
  induction a using extractFrames_induction with
  | none a h => rw [extractFrames_of_none h, prependFrames_nil]
  | short a b h hs =>
    rw [extractFrames_of_short h hs, prependFrames_nil, extractFrames_of_some (findPreamble_append h c)]
  | complete a b h hc ih =>
    obtain ⟨hlen, hframes⟩ := candidate_append hc c
    have hc' : candidateLength (b ++ c) ≤ (b ++ c).length := by
      rw [hlen, List.length_append]
      omega
    rw [extractFrames_of_complete (findPreamble_append h c) hc', hlen, hframes,
      List.drop_append_of_le_length hc, ih, extractFrames_of_complete h hc, ← prependFrames_append]
    rfl

/-- R162 from a leftover on: the chunks' frames are those of the whole stream. -/
theorem extractChunks_eq (rest : List Byte) (h : extractFrames rest = ([], rest)) (chunks : List (List Byte)) :
    extractChunks rest chunks = (extractFrames (rest ++ chunks.flatten)).1 := by
  induction chunks generalizing rest with
  | nil => rw [extractChunks, List.flatten_nil, List.append_nil, h]
  | cons c cs ih =>
    rw [extractChunks, ih _ (extractFrames_leftover _), List.flatten_cons, ← List.append_assoc,
      extractFrames_append (rest ++ c)]
    rfl

/-- R160: chunk after chunk is one chunk of all their bytes. -/
theorem foldl_receiveBytes (chunks : List (List Byte)) (o : Host.Outcome State Fault Refusal) :
    chunks.foldl (fun o c => andThen o (receiveBytes c)) o = andThen o (receiveBytes chunks.flatten) := by
  induction chunks generalizing o with
  | nil => cases o <;> rfl
  | cons c cs ih =>
    have hcut : receiveBytes (c ++ cs.flatten) = fun s => andThen (receiveBytes c s) (receiveBytes cs.flatten) :=
      funext (receiveBytes_append c cs.flatten)
    rw [List.foldl_cons, ih, andThen_assoc, List.flatten_cons, hcut]

/-- Settles O25: the function by induction over the chunks, with the leftover's stability; the machine because a
chunk is its bytes. -/
theorem chunkingMakesNoDifference : Obligations.ChunkingMakesNoDifference :=
  ⟨fun chunks => extractChunks_eq [] rfl chunks, fun s chunks => foldl_receiveBytes chunks (.next s)⟩

/-- Settles O24, by induction over the rounds. -/
theorem extractFramesLeftoverIsStable : Obligations.ExtractFramesLeftoverIsStable := extractFrames_leftover

/-- An index of the preamble of a buffer, one byte on, is an index of the shorter buffer's. -/
theorem firstPreamble_cons {b : Byte} {buf : List Byte} {p : Nat} :
    FirstPreamble (b :: buf) (p + 1) ↔
      ¬ (b = 0xAA ∧ buf[0]? = some 0x55) ∧ FirstPreamble buf p := by
  simp only [FirstPreamble, List.getElem?_cons_succ]
  constructor
  · rintro ⟨hp, hmin⟩
    exact ⟨by simpa using hmin 0 (Nat.succ_pos p),
      hp, fun i hi => by simpa using hmin (i + 1) (Nat.succ_lt_succ hi)⟩
  · rintro ⟨h0, hp, hmin⟩
    refine ⟨hp, fun i hi => ?_⟩
    cases i with
    | zero => simpa using h0
    | succ i => simpa using hmin i (Nat.lt_of_succ_lt_succ hi)

/-- R150 step 1: the search finds the buffer from its least index of the preamble on. -/
theorem findPreamble_of_firstPreamble {buf : List Byte} {p : Nat} (h : FirstPreamble buf p) :
    findPreamble buf = some (buf.drop p) := by
  induction p generalizing buf with
  | zero =>
    obtain ⟨⟨h0, h1⟩, -⟩ := h
    match buf, h0, h1 with
    | _ :: _ :: rest, rfl, rfl => exact findPreamble_preamble rest
  | succ p ih =>
    match buf, h with
    | [], h => simp [FirstPreamble] at h
    | [_], h => simp [FirstPreamble] at h
    | b0 :: b1 :: rest, h =>
      obtain ⟨h0, hp⟩ := firstPreamble_cons.1 h
      have hskip : ¬ (b0 = preamble0 ∧ b1 = preamble1) := by simpa [preamble0, preamble1] using h0
      rw [findPreamble_skip hskip, ih hp, List.drop_succ_cons]

/-- R150 step 1: what is found stands at the least index of the preamble. -/
theorem exists_firstPreamble : ∀ {buf b : List Byte}, findPreamble buf = some b → ∃ p, FirstPreamble buf p
  | [], _, h => by simp [findPreamble] at h
  | [_], _, h => by simp [findPreamble] at h
  | b0 :: b1 :: rest, b, h => by
    by_cases hp : b0 = preamble0 ∧ b1 = preamble1
    · obtain ⟨rfl, rfl⟩ := hp
      exact ⟨0, ⟨rfl, rfl⟩, fun i hi => absurd hi (Nat.not_lt_zero i)⟩
    · rw [findPreamble_skip hp] at h
      obtain ⟨p, hfirst⟩ := exists_firstPreamble h
      exact ⟨p + 1, firstPreamble_cons.2 ⟨by simpa [preamble0, preamble1] using hp, hfirst⟩⟩

/-- R150 step 1: without an index of the preamble nothing is found. -/
theorem findPreamble_of_forall_not {buf : List Byte} (h : ∀ p, ¬ FirstPreamble buf p) :
    findPreamble buf = none := by
  cases hb : findPreamble buf with
  | none => rfl
  | some b =>
    obtain ⟨p, hp⟩ := exists_firstPreamble hb
    exact absurd hp (h p)

/-- LENGTH of the candidate at index `p`. -/
theorem candidateLength_drop (buf : List Byte) (p : Nat) :
    candidateLength (buf.drop p) = 6 + (buf.getD (p + 2) 0).toNat := by
  simp only [candidateLength, minFrame, List.getD_eq_getElem?_getD, List.getElem?_drop]

/-- Settles O23: each clause is one kind of round. -/
theorem extractFramesFollowsItsLoop : Obligations.ExtractFramesFollowsItsLoop := by
  refine ⟨fun s buf => rfl, fun buf h => extractFrames_of_none (findPreamble_of_forall_not h), ?_, ?_⟩
  · intro buf p hp hshort
    refine extractFrames_of_short (findPreamble_of_firstPreamble hp) ?_
    rw [candidateLength_drop]
    omega
  · intro buf p l hp hl hc
    have hlen : candidateLength (buf.drop p) = 6 + l := by rw [candidateLength_drop, hl]
    have hl' : ((buf.drop p).getD 2 0).toNat = l := Nat.add_left_cancel hlen
    rw [extractFrames_of_complete (findPreamble_of_firstPreamble hp) (hlen.trans_le hc), candidateFrames,
      hlen, hl', List.drop_drop, Nat.add_assoc]
    split_ifs <;> rfl

end Sys2Proof.Machine
end

section
/-! PROOFS. One received byte under the conditions of R33 (10_state.md section 4): inside a candidate it is collected
and nothing else happens; it always has its step, and the conditions hold again. -/

namespace Sys2Proof.Machine

theorem phaseInv_len {s : State} (hp : s.ph = .len) : PhaseInv s ↔ s.fbn = 0 ∧ s.crc = 0xFFFF := by
  simp only [PhaseInv, hp]

theorem phaseInv_opc {s : State} (hp : s.ph = .opc) :
    PhaseInv s ↔ s.fbn = 1 ∧ s.cnt = 0 ∧ Covered s 1 := by
  simp only [PhaseInv, hp]

theorem phaseInv_pay {s : State} (hp : s.ph = .pay) :
    PhaseInv s ↔ s.cnt.toNat < s.len.toNat ∧ s.fbn.toNat = 2 + s.cnt.toNat ∧
      Covered s (2 + s.cnt.toNat) := by
  simp only [PhaseInv, hp]

theorem phaseInv_crc {s : State} (hp : s.ph = .crclo ∨ s.ph = .crchi) :
    PhaseInv s ↔ s.cnt = s.len ∧ s.fbn.toNat = 2 + s.len.toNat ∧ Covered s (2 + s.len.toNat) := by
  rcases hp with hp | hp <;> simp only [PhaseInv, hp]

theorem phaseInv_hunting {s : State} (hp : s.ph = .hunt ∨ s.ph = .hunt55) : PhaseInv s := by
  rcases hp with hp | hp <;> simp only [PhaseInv, hp]

/-- The bytes collected so far are there, and `crc` is their CRC (R21, R25). -/
structure Collects (s : State) : Prop where
  read : Memory.readN s.fb 0 s.fbn.toNat = some s.body
  crc : s.crc = crc16 s.body

theorem body_of_readN {s : State} {pf : List Byte} (h : Memory.readN s.fb 0 s.fbn.toNat = some pf) :
    s.body = pf := by
  rw [State.body, h, Option.getD_some]

theorem Collects.of_eq {s t : State} (h : Collects s) (hfb : t.fb = s.fb) (hfbn : t.fbn = s.fbn)
    (hcrc : t.crc = s.crc) : Collects t := by
  have hbody : t.body = s.body := by rw [State.body, State.body, hfb, hfbn]
  exact ⟨by rw [hfb, hfbn, hbody, h.read], by rw [hcrc, hbody, h.crc]⟩

theorem Collects.length {s : State} (h : Collects s) : s.body.length = s.fbn.toNat :=
  Memory.readN_length h.read

/-- R33's condition on the first `fbn` bytes, in terms of the bytes collected. -/
theorem covered_iff {s : State} {n : Nat} (hn : s.fbn.toNat = n) :
    Covered s n ↔ Collects s ∧ s.body.head? = some s.len := by
  subst hn
  constructor
  · rintro ⟨pf, hread, hhead, hcrc⟩
    have hbody := body_of_readN hread
    subst hbody
    exact ⟨⟨hread, hcrc⟩, hhead⟩
  · rintro ⟨⟨hread, hcrc⟩, hhead⟩
    exact ⟨s.body, hread, hhead, hcrc⟩

/-- The state with a byte stored behind the bytes collected and entered into the CRC (R153 to R155). -/
def stored (b : Byte) (s : State) : State :=
  { s with fb := Memory.write s.fb s.fbn.toNat b, fbn := s.fbn + 1, crc := crcByte s.crc b }

/-- R137 b: the CRC of a concatenation goes on from the CRC of the first part. -/
theorem crc16_append (a b : List Byte) : crc16 (a ++ b) = b.foldl crcByte (crc16 a) := List.foldl_append

section
variable {s : State} (h : Collects s) (hn : s.fbn.toNat ≤ 256) (b : Byte)
include hn

theorem stored_fbn : (stored b s).fbn.toNat = s.fbn.toNat + 1 := by
  change (s.fbn.toNat + 1) % 512 = s.fbn.toNat + 1
  omega

include h

theorem stored_read :
    Memory.readN (stored b s).fb 0 (stored b s).fbn.toNat = some (s.body ++ [b]) := by
  rw [stored_fbn hn]
  exact Memory.readN_write_next b h.read

theorem stored_body : (stored b s).body = s.body ++ [b] := body_of_readN (stored_read h hn b)

theorem stored_collects : Collects (stored b s) := by
  have hbody := stored_body h hn b
  refine ⟨hbody ▸ stored_read h hn b, ?_⟩
  rw [hbody, crc16_append, ← h.crc]
  rfl

end

/-- The phases that hold the preamble and the bytes collected, and nothing else (R32). -/
def Phase.holdsBody : Phase → Bool
  | .len | .opc | .pay | .crclo => true
  | .hunt | .hunt55 | .crchi => false

theorem pending_of_holdsBody {s : State} (h : s.ph.holdsBody = true) :
    s.pending = preamble0 :: preamble1 :: s.body := by
  unfold State.pending
  cases hp : s.ph <;> simp_all [Phase.holdsBody]

theorem pending_crchi {s : State} (hp : s.ph = .crchi) :
    s.pending = preamble0 :: preamble1 :: (s.body ++ [s.crcLo]) := by
  simp only [State.pending, hp]

theorem pending_hunt {s : State} (hp : s.ph = .hunt) : s.pending = [] := by
  simp only [State.pending, hp]

theorem pending_hunt55 {s : State} (hp : s.ph = .hunt55) : s.pending = [preamble0] := by
  simp only [State.pending, hp]

/-- Received bytes that are held and have no other effect: nothing is emitted, the rest of the block stays, and
nothing is stored beyond the bytes held. -/
structure Quiet (s t : State) (c : List Byte) : Prop where
  out : t.out = s.out
  status : t.status = s.status
  obs : t.obs = s.obs
  inbox : t.inbox = s.inbox
  returns : t.returns = s.returns
  tx : t.tx = s.tx
  pending : t.pending = s.pending ++ c
  kept : ∀ a, t.pending.length ≤ a + 2 → Memory.read t.fb a = Memory.read s.fb a

theorem Quiet.refl (s : State) : Quiet s s [] :=
  ⟨rfl, rfl, rfl, rfl, rfl, rfl, (List.append_nil _).symm, fun _ _ => rfl⟩

theorem Quiet.trans {s t u : State} {c d : List Byte} (h : Quiet s t c) (k : Quiet t u d) :
    Quiet s u (c ++ d) where
  out := k.out.trans h.out
  status := k.status.trans h.status
  obs := k.obs.trans h.obs
  inbox := k.inbox.trans h.inbox
  returns := k.returns.trans h.returns
  tx := k.tx.trans h.tx
  pending := by rw [k.pending, h.pending, List.append_assoc]
  kept a ha := by
    have hle : t.pending.length ≤ a + 2 := by
      rw [k.pending, List.length_append] at ha
      omega
    exact (k.kept a ha).trans (h.kept a hle)

/-- A stored byte is held, whatever becomes of the counters and between the phases that hold the bytes collected. -/
theorem quiet_stored {s : State} (h : Collects s) (hn : s.fbn.toNat ≤ 256) (hp : s.ph.holdsBody = true)
    {q : Phase} (hq : q.holdsBody = true) (b l c : Byte) :
    Quiet s { stored b s with len := l, cnt := c, ph := q } [b] := by
  have hpend : ({ stored b s with len := l, cnt := c, ph := q } : State).pending = s.pending ++ [b] := by
    rw [pending_of_holdsBody hp, pending_of_holdsBody hq]
    exact congrArg (preamble0 :: preamble1 :: ·) (stored_body h hn b)
  refine ⟨rfl, rfl, rfl, rfl, rfl, rfl, hpend, fun a ha => ?_⟩
  refine Memory.read_write_other _ _ fun hEq => ?_
  rw [hpend, pending_of_holdsBody hp] at ha
  simp only [List.length_append, List.length_cons, List.length_nil, h.length] at ha
  omega

/-- The further bytes a candidate takes whose LENGTH is known (R163). -/
def remaining (s : State) : Nat :=
  match s.ph with
  | .hunt | .hunt55 | .len => 0
  | .opc => s.len.toNat + 3
  | .pay => s.len.toNat - s.cnt.toNat + 2
  | .crclo => 2
  | .crchi => 1

theorem head?_concat {c : List Byte} {l : Byte} (h : c.head? = some l) (b : Byte) :
    (c ++ [b]).head? = some l := by
  rw [List.head?_append, h, Option.some_or]

/-- A stored byte keeps R33's condition on the bytes collected; the first of them is LENGTH. -/
theorem covered_stored {s : State} (h : Collects s) (hn : s.fbn.toNat ≤ 256) {b l : Byte}
    (hhead : (s.body ++ [b]).head? = some l) (c : Byte) (q : Phase) {n : Nat} (hfbn : s.fbn.toNat + 1 = n) :
    Covered { stored b s with len := l, cnt := c, ph := q } n := by
  refine (covered_iff ?_).2 ⟨(stored_collects h hn b).of_eq rfl rfl rfl, ?_⟩
  · exact (stored_fbn hn b).trans hfbn
  · change (stored b s).body.head? = some l
    rw [stored_body h hn, hhead]

/-- Phase LEN: LENGTH is stored at 0 and fixes how many bytes follow (R153). -/
theorem receiveByte_len {s : State} (h : PhaseInv s) (hp : s.ph = .len) (b : Byte) :
    ∃ t, receiveByte b s = .next t ∧ Quiet s t [b] ∧ PhaseInv t ∧ t.ph = .opc ∧ t.len = b := by
  obtain ⟨hfbn, hcrc⟩ := (phaseInv_len hp).1 h
  have hread : Memory.readN s.fb 0 s.fbn.toNat = some [] := by rw [hfbn]; rfl
  have hbody := body_of_readN hread
  have hcol : Collects s := ⟨hbody ▸ hread, hbody ▸ hcrc⟩
  have hn : s.fbn.toNat ≤ 256 := by rw [hfbn]; decide
  refine ⟨{ stored b s with len := b, cnt := 0, ph := .opc }, ?_,
    quiet_stored hcol hn (by rw [hp]; rfl) rfl b b 0, ?_, rfl, rfl⟩
  · rw [receiveByte, hp]
    simp only [rxLen_eq, stored, hfbn]
    rfl
  · refine (phaseInv_opc rfl).2 ⟨by simp [stored, hfbn], rfl, ?_⟩
    exact covered_stored hcol hn (by rw [hbody]; rfl) 0 .opc (by rw [hfbn]; rfl)

/-- Phase OPC: the opcode is stored at 1, and the payload or the trailer follows (R154). -/
theorem receiveByte_opc {s : State} (h : PhaseInv s) (hp : s.ph = .opc) (b : Byte) :
    ∃ t, receiveByte b s = .next t ∧ Quiet s t [b] ∧ PhaseInv t ∧ t.len = s.len ∧
      remaining t + 1 = remaining s ∧ t.ph = if s.len = 0 then .crclo else .pay := by
  obtain ⟨hfbn, hcnt, hcov⟩ := (phaseInv_opc hp).1 h
  have hfbn' : s.fbn.toNat = 1 := by rw [hfbn]; rfl
  obtain ⟨hcol, hhead⟩ := (covered_iff hfbn').1 hcov
  have hn : s.fbn.toNat ≤ 256 := by omega
  have hstep : receiveByte b s = .next
      { stored b s with ph := if s.len = 0 then .crclo else .pay } := by
    rw [receiveByte, hp]
    simp only [rxOpc_eq, stored, hfbn]
    rfl
  have hcov' := covered_stored hcol hn (head?_concat hhead b) s.cnt
  by_cases hlen : s.len = 0
  · rw [if_pos hlen] at hstep ⊢
    refine ⟨_, hstep, quiet_stored hcol hn (by rw [hp]; rfl) rfl b s.len s.cnt, ?_, rfl, ?_, rfl⟩
    · have h2 : s.fbn.toNat + 1 = 2 + s.len.toNat := by rw [hfbn', hlen]; rfl
      exact (phaseInv_crc (.inl rfl)).2 ⟨hcnt.trans hlen.symm, (stored_fbn hn b).trans h2, hcov' _ h2⟩
    · simp [remaining, hp, hlen]
  · rw [if_neg hlen] at hstep ⊢
    refine ⟨_, hstep, quiet_stored hcol hn (by rw [hp]; rfl) rfl b s.len s.cnt, ?_, rfl, ?_, rfl⟩
    · have h2 : s.fbn.toNat + 1 = 2 + s.cnt.toNat := by rw [hfbn', hcnt]; rfl
      have hpos : s.cnt.toNat < s.len.toNat := by
        rw [hcnt]
        exact Nat.pos_of_ne_zero fun h0 => hlen (BitVec.eq_of_toNat_eq h0)
      exact (phaseInv_pay rfl).2 ⟨hpos, (stored_fbn hn b).trans h2, hcov' _ h2⟩
    · simp [remaining, hp, stored, hcnt]

/-- Phase PAY: the byte is stored behind the others, and with the last one the trailer follows (R155). -/
theorem receiveByte_pay {s : State} (h : PhaseInv s) (hp : s.ph = .pay) (b : Byte) :
    ∃ t, receiveByte b s = .next t ∧ Quiet s t [b] ∧ PhaseInv t ∧ t.len = s.len ∧
      remaining t + 1 = remaining s ∧ t.ph = if s.cnt.toNat + 1 < s.len.toNat then .pay else .crclo := by
  obtain ⟨hcnt, hfbn, hcov⟩ := (phaseInv_pay hp).1 h
  obtain ⟨hcol, hhead⟩ := (covered_iff hfbn).1 hcov
  have hlt := payloadAddress_lt_fbSize hcnt
  have hn : s.fbn.toNat ≤ 256 := by unfold fbSize at hlt; omega
  have hstep : receiveByte b s = .next
      { stored b s with
        cnt := s.cnt + 1, ph := if s.cnt.toNat + 1 = s.len.toNat then .crclo else .pay } := by
    rw [receiveByte, hp]
    simp only [rxPay_eq hlt, stored, hfbn]
  have hcnt' : (s.cnt + 1).toNat = s.cnt.toNat + 1 := by
    have hlen := s.len.isLt
    change (s.cnt.toNat + 1) % 256 = s.cnt.toNat + 1
    omega
  have hcov' := covered_stored hcol hn (head?_concat hhead b) (s.cnt + 1)
  by_cases hlast : s.cnt.toNat + 1 = s.len.toNat
  · rw [if_pos hlast] at hstep
    rw [if_neg hlast.not_lt]
    refine ⟨_, hstep, quiet_stored hcol hn (by rw [hp]; rfl) rfl b s.len (s.cnt + 1), ?_, rfl, ?_, rfl⟩
    · have h2 : s.fbn.toNat + 1 = 2 + s.len.toNat := by omega
      exact (phaseInv_crc (.inl rfl)).2
        ⟨BitVec.eq_of_toNat_eq (hcnt'.trans hlast), (stored_fbn hn b).trans h2, hcov' _ h2⟩
    · simp only [remaining, hp]
      omega
  · have hmore : s.cnt.toNat + 1 < s.len.toNat := by omega
    rw [if_neg hlast] at hstep
    rw [if_pos hmore]
    refine ⟨_, hstep, quiet_stored hcol hn (by rw [hp]; rfl) rfl b s.len (s.cnt + 1), ?_, rfl, ?_, rfl⟩
    · have h2 : s.fbn.toNat + 1 = 2 + (s.cnt + 1).toNat := by omega
      exact (phaseInv_pay rfl).2 ⟨hcnt'.trans_lt hmore, (stored_fbn hn b).trans h2, hcov' _ h2⟩
    · simp only [remaining, hp, stored, hcnt']
      omega

/-- Phase CRCLO: the first trailer byte is held (R156). -/
theorem receiveByte_crclo {s : State} (h : PhaseInv s) (hp : s.ph = .crclo) (b : Byte) :
    ∃ t, receiveByte b s = .next t ∧ Quiet s t [b] ∧ PhaseInv t ∧ t.len = s.len ∧
      remaining t + 1 = remaining s ∧ t.ph = .crchi := by
  refine ⟨{ s with crcLo := b, ph := .crchi }, by rw [receiveByte, hp]; rfl, ?_, ?_, rfl, ?_, rfl⟩
  · refine ⟨rfl, rfl, rfl, rfl, rfl, rfl, ?_, fun _ _ => rfl⟩
    rw [pending_crchi rfl, pending_of_holdsBody (by rw [hp]; rfl)]
    rfl
  · exact (phaseInv_crc (.inr rfl)).2 ((phaseInv_crc (.inl hp)).1 h)
  · simp only [remaining, hp]

/-- R33 in the phases inside a candidate: the bytes collected are there with their CRC and begin with LENGTH, and the
counters are in their ranges. -/
theorem inside_candidate {s : State} (h : PhaseInv s) (hr : 0 < remaining s) :
    Collects s ∧ s.body.head? = some s.len ∧ s.fbn.toNat ≤ 2 + s.len.toNat ∧ s.cnt.toNat ≤ s.len.toNat := by
  have of_covered {n : Nat} (hfbn : s.fbn.toNat = n) (hcov : Covered s n) (hn : n ≤ 2 + s.len.toNat)
      (hcnt : s.cnt.toNat ≤ s.len.toNat) : Collects s ∧ s.body.head? = some s.len ∧
        s.fbn.toNat ≤ 2 + s.len.toNat ∧ s.cnt.toNat ≤ s.len.toNat := by
    obtain ⟨hcol, hhead⟩ := (covered_iff hfbn).1 hcov
    exact ⟨hcol, hhead, hfbn.trans_le hn, hcnt⟩
  cases hp : s.ph with
  | hunt | hunt55 | len => simp [remaining, hp] at hr
  | opc =>
    obtain ⟨hfbn, hcnt, hcov⟩ := (phaseInv_opc hp).1 h
    exact of_covered (by rw [hfbn]; rfl) hcov (by omega) (by rw [hcnt]; exact Nat.zero_le _)
  | pay =>
    obtain ⟨hcnt, hfbn, hcov⟩ := (phaseInv_pay hp).1 h
    exact of_covered hfbn hcov (by omega) hcnt.le
  | crclo =>
    obtain ⟨hcnt, hfbn, hcov⟩ := (phaseInv_crc (.inl hp)).1 h
    exact of_covered hfbn hcov le_rfl (congrArg BitVec.toNat hcnt).le
  | crchi =>
    obtain ⟨hcnt, hfbn, hcov⟩ := (phaseInv_crc (.inr hp)).1 h
    exact of_covered hfbn hcov le_rfl (congrArg BitVec.toNat hcnt).le

/-- What is collected of a candidate that has all but its last byte is a MSG (R96). -/
theorem collects_crchi {s : State} (h : PhaseInv s) (hp : s.ph = .crchi) :
    Collects s ∧ s.fbn.toNat = 2 + s.len.toNat ∧ ∃ op payload,
      payload.length = s.len.toNat ∧ s.body = s.len :: op :: payload := by
  obtain ⟨-, hfbn, hcov⟩ := (phaseInv_crc (.inr hp)).1 h
  obtain ⟨hcol, hhead⟩ := (covered_iff hfbn).1 hcov
  have hlen := hcol.length
  refine ⟨hcol, hfbn, ?_⟩
  match hb : s.body, hhead with
  | [_], _ => rw [hb, hfbn] at hlen; simp at hlen; omega
  | l :: op :: payload, hhead =>
    cases hhead
    rw [hb, hfbn] at hlen
    exact ⟨op, payload, by simp only [List.length_cons] at hlen; omega, rfl⟩

/-- Phase CRCHI: the candidate's end, a match or a mismatch (R157). -/
theorem receiveByte_crchi {s : State} (h : PhaseInv s) (hp : s.ph = .crchi) (b : Byte) :
    receiveByte b s = .next (resumeHunt
      (if crc16 s.body = u16le s.crcLo b then accept s.body s else dropCandidate s.body b s)) := by
  obtain ⟨hcol, hfbn, -⟩ := collects_crchi h hp
  have hle : s.fbn.toNat ≤ fbSize := by
    have hlen := s.len.isLt
    unfold fbSize
    omega
  rw [receiveByte, hp, ← hcol.crc]
  exact rxCrchi_of_collected (collected_of_readN hle hcol.read) b

/-- R163: every byte of a candidate but its last is held and the block is silent. -/
theorem receiveByte_of_remaining {s : State} (h : PhaseInv s) (hr : 1 < remaining s) (b : Byte) :
    ∃ t, receiveByte b s = .next t ∧ Quiet s t [b] ∧ PhaseInv t ∧ t.len = s.len ∧
      remaining t + 1 = remaining s := by
  cases hp : s.ph with
  | hunt | hunt55 | len | crchi => simp [remaining, hp] at hr
  | opc =>
    obtain ⟨t, hstep, hquiet, hinv, hlen, hrem, -⟩ := receiveByte_opc h hp b
    exact ⟨t, hstep, hquiet, hinv, hlen, hrem⟩
  | pay =>
    obtain ⟨t, hstep, hquiet, hinv, hlen, hrem, -⟩ := receiveByte_pay h hp b
    exact ⟨t, hstep, hquiet, hinv, hlen, hrem⟩
  | crclo =>
    obtain ⟨t, hstep, hquiet, hinv, hlen, hrem, -⟩ := receiveByte_crclo h hp b
    exact ⟨t, hstep, hquiet, hinv, hlen, hrem⟩

/-- R163 for a string of bytes, by induction over it. -/
theorem receiveBytes_of_remaining {s : State} {c : List Byte} (h : PhaseInv s)
    (hc : c.length < remaining s) :
    ∃ t, receiveBytes c s = .next t ∧ Quiet s t c ∧ PhaseInv t ∧ t.len = s.len ∧
      remaining t + c.length = remaining s := by
  induction c generalizing s with
  | nil => exact ⟨s, rfl, Quiet.refl s, h, rfl, rfl⟩
  | cons b c ih =>
    rw [List.length_cons] at hc
    obtain ⟨u, hu, hquiet, hinv, hlen, hrem⟩ := receiveByte_of_remaining h (by omega) b
    obtain ⟨t, ht, hquiet', hinv', hlen', hrem'⟩ := ih hinv (by omega)
    refine ⟨t, ?_, hquiet.trans hquiet', hinv', hlen'.trans hlen, ?_⟩
    · rw [receiveBytes, hu]
      exact ht
    · rw [List.length_cons]
      omega

theorem ph_crchi_of_remaining {s : State} (hr : remaining s = 1) : s.ph = .crchi := by
  cases hp : s.ph with
  | crchi => rfl
  | hunt | hunt55 | len | opc | crclo => simp [remaining, hp] at hr
  | pay =>
    simp only [remaining, hp] at hr
    omega

/-- The row RX_CHUNK receives its bytes (R160). -/
theorem exec_rxChunk (c : List Byte) (s : State) : exec (.rxChunk c) s = receiveBytes c s := rfl

/-- Settles O16: the counter of the bytes a candidate still takes falls by one with each; at one it is the phase
CRCHI, whose step hunts again. -/
theorem candidateTakesExactlyItsLength : Obligations.CandidateTakesExactlyItsLength := by
  refine ⟨fun s c hinv hp hc => ?_, fun s c hinv hp hc => ?_⟩
  · have hrem : remaining s = s.len.toNat + 3 := by simp only [remaining, hp]
    obtain ⟨t, ht, hquiet, hinv', -, hrem'⟩ := receiveBytes_of_remaining hinv.phase (hc.trans_eq hrem.symm)
    refine ⟨t, ht, hquiet.out, hquiet.status, fun h => ?_, fun h => ?_, hquiet.pending⟩
    all_goals
      simp only [remaining, h, hp] at hrem'
      omega
  · have hrem : remaining s = s.len.toNat + 3 := by simp only [remaining, hp]
    obtain ⟨c, b, rfl⟩ : ∃ d b, c = d ++ [b] :=
      ⟨_, _, (List.dropLast_append_getLast (List.ne_nil_of_length_pos (by omega))).symm⟩
    rw [List.length_append, List.length_singleton] at hc
    obtain ⟨t, ht, -, hinv', -, hrem'⟩ := receiveBytes_of_remaining (c := c) hinv.phase (by omega)
    have hstep := receiveByte_crchi hinv' (ph_crchi_of_remaining (by omega)) b
    have hchunk : exec (.rxChunk (c ++ [b])) s = receiveByte b t := by
      rw [exec_rxChunk, receiveBytes_append, ht, andThen_next, receiveBytes_singleton]
    exact ⟨_, hchunk.trans hstep, resumeHunt_ph _⟩

/-- R158, R159: under the conditions of its phase a received byte has its step, the phase follows the transition
table and the conditions hold again (R33). -/
theorem receiveByte_of_phaseInv {s : State} (h : PhaseInv s) (b : Byte) :
    ∃ t, receiveByte b s = .next t ∧ t.ph = nextPhase s b ∧ PhaseInv t := by
  cases hp : s.ph with
  | hunt =>
    refine ⟨_, by rw [receiveByte, hp]; exact rxHunt_eq b s, ?_, phaseInv_hunting ?_⟩
    · simp only [nextPhase, hp, preamble0]
      split_ifs <;> rfl
    · by_cases hb : b = preamble0
      · exact .inr (by rw [if_pos hb])
      · exact .inl (by rw [if_neg hb]; exact hp)
  | hunt55 =>
    have hstep : receiveByte b s = rxHunt55 b s := by rw [receiveByte, hp]
    simp only [hstep, nextPhase, hp, rxHunt55]
    by_cases h1 : b = preamble1
    · exact ⟨_, if_pos h1, by rw [h1]; rfl, (phaseInv_len rfl).2 ⟨rfl, rfl⟩⟩
    · have h1' : ¬ b = 0x55 := h1
      rw [if_neg h1, if_neg h1']
      by_cases h0 : b = preamble0
      · exact ⟨_, if_pos h0, by rw [h0]; exact hp, phaseInv_hunting (.inr hp)⟩
      · have h0' : ¬ b = 0xAA := h0
        exact ⟨_, if_neg h0, by rw [if_neg h0'], phaseInv_hunting (.inl rfl)⟩
  | len =>
    obtain ⟨t, hstep, -, hinv, hph, -⟩ := receiveByte_len h hp b
    exact ⟨t, hstep, by simp only [nextPhase, hp, hph], hinv⟩
  | opc =>
    obtain ⟨t, hstep, -, hinv, -, -, hph⟩ := receiveByte_opc h hp b
    exact ⟨t, hstep, by simp only [nextPhase, hp, hph], hinv⟩
  | pay =>
    obtain ⟨t, hstep, -, hinv, -, -, hph⟩ := receiveByte_pay h hp b
    exact ⟨t, hstep, by simp only [nextPhase, hp, hph], hinv⟩
  | crclo =>
    obtain ⟨t, hstep, -, hinv, -, -, hph⟩ := receiveByte_crclo h hp b
    exact ⟨t, hstep, by simp only [nextPhase, hp, hph], hinv⟩
  | crchi =>
    exact ⟨_, receiveByte_crchi h hp b, by simp only [nextPhase, hp, resumeHunt_ph],
      phaseInv_hunting (.inl (resumeHunt_ph _))⟩

end Sys2Proof.Machine
end

section
/-! PROOFS. The byte machine against the stream it has received (41_reassembler.md section 3, 10_state.md section 6):
what each event accounts for, and that the frames are those of EXTRACT_FRAMES. -/

namespace Sys2Proof.Machine

@[simp] theorem minimalRemainder_preamble (rest : List Byte) :
    minimalRemainder (preamble0 :: preamble1 :: rest) = preamble0 :: preamble1 :: rest := by
  simp [minimalRemainder]

theorem minimalRemainder_skip {b0 b1 : Byte} (h : ¬ (b0 = preamble0 ∧ b1 = preamble1)) (rest : List Byte) :
    minimalRemainder (b0 :: b1 :: rest) = minimalRemainder (b1 :: rest) := by
  rw [minimalRemainder]
  exact if_neg h

/-- The frames in a buffer, and what of its leftover the byte machine holds (R32, R161). -/
def scan (buf : List Byte) : List (List Byte) × List Byte :=
  ((extractFrames buf).1, minimalRemainder (extractFrames buf).2)

/-- A byte that begins no preamble changes neither. -/
theorem scan_skip {b0 b1 : Byte} (h : ¬ (b0 = preamble0 ∧ b1 = preamble1)) (rest : List Byte) :
    scan (b0 :: b1 :: rest) = scan (b1 :: rest) := by
  have hfind := findPreamble_skip h rest
  cases hb : findPreamble (b1 :: rest) with
  | none =>
    rw [scan, scan, extractFrames_of_none hb, extractFrames_of_none (hfind.trans hb)]
    exact congrArg (Prod.mk []) (minimalRemainder_skip h rest)
  | some b => rw [scan, scan, extractFrames_of_some hb, extractFrames_of_some (hfind.trans hb)]

theorem scan_skip_of_ne {b : Byte} (h : b ≠ preamble0) : ∀ rest : List Byte, scan (b :: rest) = scan rest
  | [] => congrArg (Prod.mk []) (if_neg h)
  | _ :: rest => scan_skip (fun hb => h hb.1) rest

theorem check_eq_isMatch (c rx : Word) : check c rx = .isMatch ↔ c = rx := by
  simp [check]

/-- R150 steps 4 and 5 on a candidate written out: its MSG is a frame exactly if its CRC matches. -/
theorem extractFrames_candidate {l : Byte} {payload : List Byte} (h : payload.length = l.toNat)
    (op crcl crch : Byte) (rest : List Byte) :
    extractFrames (preamble0 :: preamble1 :: l :: op :: (payload ++ crcl :: crch :: rest)) =
      prependFrames (if crc16 (l :: op :: payload) = u16le crcl crch then [l :: op :: payload] else [])
        (extractFrames rest) := by
  have hlen : candidateLength (preamble0 :: preamble1 :: l :: op :: (payload ++ crcl :: crch :: rest)) =
      (preamble0 :: preamble1 :: l :: op :: (payload ++ [crcl, crch])).length := by
    simp only [candidateLength, minFrame, List.getD_cons_succ, List.getD_cons_zero, List.length_cons,
      List.length_append, List.length_nil]
    omega
  have hsplit : preamble0 :: preamble1 :: l :: op :: (payload ++ crcl :: crch :: rest) =
      (preamble0 :: preamble1 :: l :: op :: (payload ++ [crcl, crch])) ++ rest := by simp
  have hframes : candidateFrames (preamble0 :: preamble1 :: l :: op :: (payload ++ crcl :: crch :: rest)) =
      if crc16 (l :: op :: payload) = u16le crcl crch then [l :: op :: payload] else [] := by
    have hslice := slice_covered h preamble0 preamble1 op (crcl :: crch :: rest)
    rw [candidateFrames, hlen, List.getD_cons_succ, List.getD_cons_succ, List.getD_cons_zero, hslice, hsplit,
      List.take_left, validate_eq_check h preamble0 preamble1 op crcl crch []]
    simp only [check_eq_isMatch]
  rw [extractFrames_of_complete (findPreamble_preamble _) (by rw [hlen, hsplit]; simp), hframes, hlen, hsplit,
    List.drop_left]

theorem scan_candidate {l : Byte} {payload : List Byte} (h : payload.length = l.toNat)
    (op crcl crch : Byte) (rest : List Byte) :
    scan (preamble0 :: preamble1 :: l :: op :: (payload ++ crcl :: crch :: rest)) =
      prependFrames (if crc16 (l :: op :: payload) = u16le crcl crch then [l :: op :: payload] else [])
        (scan rest) := by
  rw [scan, extractFrames_candidate h]
  rfl

/-- R32: what the machine holds is no complete candidate, and is its own minimal remainder. -/
theorem scan_of_short {rest : List Byte}
    (h : (preamble0 :: preamble1 :: rest).length < candidateLength (preamble0 :: preamble1 :: rest)) :
    scan (preamble0 :: preamble1 :: rest) = ([], preamble0 :: preamble1 :: rest) := by
  rw [scan, extractFrames_of_short (findPreamble_preamble rest) h, minimalRemainder_preamble]

/-- R32: in every phase what is pending holds no frame, and all of it is held. -/
theorem scan_pending {s : State} (h : PhaseInv s) : scan s.pending = ([], s.pending) := by
  have inside (hr : 0 < remaining s) (tail : List Byte) (htail : tail.length ≤ 1) :
      scan (preamble0 :: preamble1 :: (s.body ++ tail)) =
        ([], preamble0 :: preamble1 :: (s.body ++ tail)) := by
    obtain ⟨hcol, hhead, hlen, -⟩ := inside_candidate h hr
    rw [← hcol.length] at hlen
    obtain ⟨more, hbody⟩ : ∃ more, s.body = s.len :: more := List.head?_eq_some_iff.1 hhead
    refine scan_of_short ?_
    rw [hbody] at hlen ⊢
    simp only [candidateLength, minFrame, List.cons_append, List.getD_cons_succ, List.getD_cons_zero,
      List.length_cons, List.length_append] at hlen ⊢
    omega
  cases hp : s.ph with
  | hunt => rw [pending_hunt hp]; rfl
  | hunt55 => rw [pending_hunt55 hp]; rfl
  | len =>
    have hbody : s.body = [] := body_of_readN (by rw [((phaseInv_len hp).1 h).1]; rfl)
    rw [pending_of_holdsBody (by rw [hp]; rfl), hbody]
    exact scan_of_short (by decide)
  | opc | pay | crclo =>
    have hr : 0 < remaining s := by
      simp only [remaining, hp]
      omega
    rw [pending_of_holdsBody (by rw [hp]; rfl)]
    simpa using inside hr [] (by simp)
  | crchi =>
    rw [pending_crchi hp]
    exact inside (by simp [remaining, hp]) [s.crcLo] le_rfl

/-- What the machine has emitted for received bytes, against the bytes: the events account for those no longer
pending (R37), every FRAME holds a MSG, and its frames are those of the stream, whatever follows (R161). -/
structure Accounted (s t : State) (c : List Byte) (evs : List OutEvent) : Prop where
  out : t.out = s.out ++ evs
  stream : s.pending ++ c = evs.flatMap OutEvent.accounts ++ t.pending
  msgs : ∀ pf ∈ framesOf evs, isMsg pf = true
  frames : ∀ rest, scan (s.pending ++ c ++ rest) = prependFrames (framesOf evs) (scan (t.pending ++ rest))

theorem framesOf_append (evs evs' : List OutEvent) : framesOf (evs ++ evs') = framesOf evs ++ framesOf evs' :=
  List.filterMap_append

theorem mem_of_mem_framesOf {evs : List OutEvent} {pf : List Byte} (h : pf ∈ framesOf evs) :
    .frame pf ∈ evs := by
  obtain ⟨e, he, hframe⟩ := List.mem_filterMap.1 h
  cases e with
  | frame f => cases hframe; exact he
  | deliver | logSkip | logCrcDrop | logDecodeDrop => cases hframe

theorem Accounted.trans {s t u : State} {c d : List Byte} {evs evs' : List OutEvent}
    (h : Accounted s t c evs) (k : Accounted t u d evs') : Accounted s u (c ++ d) (evs ++ evs') where
  out := by rw [k.out, h.out, List.append_assoc]
  stream := by
    rw [← List.append_assoc, h.stream, List.append_assoc, k.stream, List.flatMap_append, List.append_assoc]
  msgs pf hpf := by
    rw [framesOf_append] at hpf
    exact (List.mem_append.1 hpf).elim (h.msgs pf) (k.msgs pf)
  frames rest := by
    have hc := h.frames (d ++ rest)
    have hd := k.frames rest
    rw [List.append_assoc] at hd
    rw [← List.append_assoc s.pending, List.append_assoc _ d, hc, hd, framesOf_append, prependFrames_append]

/-- Bytes that are held and have no other effect are still pending. -/
theorem Quiet.accounted {s t : State} {c : List Byte} (h : Quiet s t c) : Accounted s t c [] where
  out := by rw [h.out, List.append_nil]
  stream := h.pending.symm
  msgs := nofun
  frames rest := by rw [h.pending]; rfl

/-- Bytes the hunt discards are accounted for by their events. -/
theorem accounted_skip {s t : State} {c bs : List Byte} (hout : t.out = s.out ++ bs.map .logSkip)
    (hstream : s.pending ++ c = bs ++ t.pending)
    (hscan : ∀ rest, scan (s.pending ++ c ++ rest) = scan (t.pending ++ rest)) :
    Accounted s t c (bs.map .logSkip) := by
  have hframes : framesOf (bs.map .logSkip) = [] := by simp [framesOf, List.filterMap_map]
  have haccounts : (bs.map .logSkip).flatMap OutEvent.accounts = bs := by
    simp [List.flatMap_map, OutEvent.accounts]
  refine ⟨hout, by rw [haccounts, hstream], ?_, fun rest => ?_⟩
  · rw [hframes]
    nofun
  · rw [hframes, hscan]
    rfl

/-- Phase HUNT at the first preamble byte. -/
theorem quiet_hunt {s : State} (hp : s.ph = .hunt) : Quiet s { s with ph := .hunt55 } [preamble0] := by
  refine ⟨rfl, rfl, rfl, rfl, rfl, rfl, ?_, fun _ _ => rfl⟩
  rw [pending_hunt hp]
  rfl

/-- Phase HUNT55 at the second preamble byte. -/
theorem quiet_hunt55 {s : State} (hp : s.ph = .hunt55) :
    Quiet s { s with ph := .len, crc := crcInit, fbn := 0 } [preamble1] := by
  refine ⟨rfl, rfl, rfl, rfl, rfl, rfl, ?_, fun _ _ => rfl⟩
  rw [pending_hunt55 hp]
  rfl

@[simp] theorem lowByte_u16le (lo hi : Byte) : lowByte (u16le lo hi) = lo := by
  ext i h
  have h16 : i < 16 := by omega
  simp [lowByte, u16le, h, h16]

@[simp] theorem highByte_u16le (lo hi : Byte) : highByte (u16le lo hi) = hi := by
  ext i h
  have hi16 : 8 + i < 16 := by omega
  simp [highByte, u16le, hi16, BitVec.getLsbD_eq_getElem h]

/-- What DISPATCH emits accounts for no byte and is no FRAME (R37). -/
theorem dispatchMsg_accounts (pf : List Byte) (s : State) :
    ∃ evs, (dispatchMsg pf s).out = s.out ++ evs ∧ framesOf evs = [] ∧
      evs.flatMap OutEvent.accounts = [] := by
  obtain ⟨evs, hout, hframe, hskip, hdrop⟩ := dispatchMsg_out pf s
  refine ⟨evs, hout, List.filterMap_eq_nil_iff.2 fun e he => ?_, List.flatMap_eq_nil_iff.2 fun e he => ?_⟩
  · cases e with
    | frame f => exact absurd rfl (hframe _ he f)
    | deliver | logSkip | logCrcDrop | logDecodeDrop => rfl
  · cases e with
    | frame f => exact absurd rfl (hframe _ he f)
    | logSkip b => exact absurd rfl (hskip _ he b)
    | logCrcDrop d => exact absurd rfl (hdrop _ he d)
    | deliver | logDecodeDrop => rfl

/-- A candidate's last byte: the candidate is accounted for by its FRAME or by its drop (R183, R184). -/
theorem accounted_crchi {s : State} (h : PhaseInv s) (hp : s.ph = .crchi) (b : Byte) :
    ∃ evs, Accounted s (resumeHunt
      (if crc16 s.body = u16le s.crcLo b then accept s.body s else dropCandidate s.body b s)) [b] evs := by
  obtain ⟨-, -, op, payload, hlen, hbody⟩ := collects_crchi h hp
  have hpend := pending_crchi hp
  have hscan (rest : List Byte) : scan (s.pending ++ [b] ++ rest) =
      prependFrames (if crc16 s.body = u16le s.crcLo b then [s.body] else []) (scan rest) := by
    rw [hpend, hbody, ← scan_candidate hlen]
    simp
  by_cases hcrc : crc16 s.body = u16le s.crcLo b
  · obtain ⟨evs, hout, hframes, haccounts⟩ := dispatchMsg_accounts s.body (s.emit [.frame s.body])
    have hframes' : framesOf (.frame s.body :: evs) = [s.body] := congrArg (s.body :: ·) hframes
    simp only [if_pos hcrc] at hscan ⊢
    refine ⟨.frame s.body :: evs, ?_, ?_, ?_, fun rest => ?_⟩
    · rw [resumeHunt_out, accept, hout, State.emit_out, List.append_assoc]
      rfl
    · rw [List.flatMap_cons, haccounts, pending_hunt (resumeHunt_ph _), OutEvent.accounts, wrapMsg, hcrc,
        lowByte_u16le, highByte_u16le, hpend]
      simp
    · rw [hframes', hbody]
      simpa using isMsg_of_length hlen op
    · rw [hscan, hframes', pending_hunt (resumeHunt_ph _), List.nil_append]
  · simp only [if_neg hcrc] at hscan ⊢
    refine ⟨[.logCrcDrop (s.pending ++ [b])], ?_, ?_, nofun, fun rest => ?_⟩
    · rw [resumeHunt_out, dropCandidate, takeError_out, Err.event, hpend]
      simp
    · rw [pending_hunt (resumeHunt_ph _)]
      simp [OutEvent.accounts]
    · rw [hscan, pending_hunt (resumeHunt_ph _), List.nil_append]
      rfl

/-- Every received byte is accounted for, by phase. -/
theorem receiveByte_accounted {s t : State} {b : Byte} (h : PhaseInv s) (ht : receiveByte b s = .next t) :
    ∃ evs, Accounted s t [b] evs := by
  have same {u : State} (hu : receiveByte b s = .next u) : u = t := by
    rw [hu] at ht
    exact Host.Outcome.next.inj ht
  cases hp : s.ph with
  | hunt =>
    rw [receiveByte, hp] at ht
    simp only [rxHunt] at ht
    split_ifs at ht with hb <;> cases ht
    · exact ⟨_, hb ▸ (quiet_hunt hp).accounted⟩
    · refine ⟨_, accounted_skip rfl ?_ fun rest => ?_⟩
      · rw [pending_hunt hp, pending_hunt (s := skipBytes [b] s) hp]
        rfl
      · rw [pending_hunt hp, pending_hunt (s := skipBytes [b] s) hp]
        exact scan_skip_of_ne hb rest
  | hunt55 =>
    rw [receiveByte, hp] at ht
    simp only [rxHunt55] at ht
    split_ifs at ht with h1 h0 <;> cases ht
    · exact ⟨_, h1 ▸ (quiet_hunt55 hp).accounted⟩
    · subst h0
      refine ⟨_, accounted_skip rfl ?_ fun rest => ?_⟩
      · rw [pending_hunt55 hp, pending_hunt55 (s := skipBytes [preamble0] s) hp]
      · rw [pending_hunt55 hp, pending_hunt55 (s := skipBytes [preamble0] s) hp]
        exact scan_skip (fun hb => h1 hb.2) rest
    · refine ⟨_, accounted_skip (bs := [preamble0, b]) rfl ?_ fun rest => ?_⟩
      · rw [pending_hunt55 hp]
        rfl
      · rw [pending_hunt55 hp]
        exact (scan_skip (fun hb => h1 hb.2) rest).trans (scan_skip_of_ne h0 rest)
  | len =>
    obtain ⟨u, hu, hquiet, -⟩ := receiveByte_len h hp b
    exact ⟨_, same hu ▸ hquiet.accounted⟩
  | opc | pay | crclo =>
    have hr : 1 < remaining s := by
      simp only [remaining, hp]
      omega
    obtain ⟨u, hu, hquiet, -⟩ := receiveByte_of_remaining h hr b
    exact ⟨_, same hu ▸ hquiet.accounted⟩
  | crchi => exact same (receiveByte_crchi h hp b) ▸ accounted_crchi h hp b

/-- R37 and R161 for a string of bytes, by induction over it. -/
theorem receiveBytes_accounted {s : State} (h : PhaseInv s) (c : List Byte) :
    ∃ t evs, receiveBytes c s = .next t ∧ PhaseInv t ∧ Accounted s t c evs := by
  induction c generalizing s with
  | nil => exact ⟨s, [], rfl, h, (Quiet.refl s).accounted⟩
  | cons b c ih =>
    obtain ⟨u, hu, -, hinv⟩ := receiveByte_of_phaseInv h b
    obtain ⟨evs, hb⟩ := receiveByte_accounted h hu
    obtain ⟨t, evs', ht, hinv', hc⟩ := ih hinv
    refine ⟨t, evs ++ evs', ?_, hinv', hb.trans hc⟩
    rw [receiveBytes, hu]
    exact ht

/-- Settles O28: the accounting law of a string of bytes. -/
theorem everyByteIsAccountedFor : Obligations.EveryByteIsAccountedFor := by
  intro s bytes h
  obtain ⟨t, evs, ht, -, hacc⟩ := receiveBytes_accounted h.phase bytes
  exact ⟨t, evs, ht, hacc.out, hacc.stream⟩

/-- Settles O27: a FRAME accounts for the wire form of its MSG, and the events account for the stream in order. -/
theorem emittedFramesStandInTheStream : Obligations.EmittedFramesStandInTheStream := by
  intro s bytes hp
  obtain ⟨t, evs, ht, -, hacc⟩ := receiveBytes_accounted (phaseInv_hunting (.inl hp)) bytes
  refine ⟨t, evs, ht, hacc.out, fun pf hpf => ⟨hacc.msgs pf hpf, ?_⟩⟩
  obtain ⟨before, after, rfl⟩ := List.append_of_mem (mem_of_mem_framesOf hpf)
  refine ⟨before.flatMap OutEvent.accounts, after.flatMap OutEvent.accounts ++ t.pending, ?_⟩
  have hstream := hacc.stream
  rw [pending_hunt hp, List.nil_append] at hstream
  rw [hstream, List.flatMap_append, List.flatMap_cons, List.append_assoc, List.append_assoc, List.append_assoc]
  rfl

/-- Settles O26: the frames emitted and what is pending are, together, those of the stream; what is pending at the end
holds no frame. -/
theorem machineEmitsTheFramesOfExtractFrames : Obligations.MachineEmitsTheFramesOfExtractFrames := by
  intro s bytes hp
  obtain ⟨t, evs, ht, hinv, hacc⟩ := receiveBytes_accounted (phaseInv_hunting (.inl hp)) bytes
  have hscan : scan bytes = (framesOf evs, t.pending) := by
    have hall := hacc.frames []
    rw [pending_hunt hp, List.nil_append, List.append_nil, List.append_nil, scan_pending hinv] at hall
    rw [hall, prependFrames, List.append_nil]
  have hframes : (extractFrames bytes).1 = framesOf evs := congrArg Prod.fst hscan
  have hrest : minimalRemainder (extractFrames bytes).2 = t.pending := congrArg Prod.snd hscan
  exact ⟨t, ht, by rw [hacc.out, framesOf_append, hframes], hrest.symm⟩

end Sys2Proof.Machine
end

section
/-! PROOFS. The payload shapes (30_encoding.md section 2): what is read is what is written, shape by shape. -/

namespace Sys2Proof.Machine

/-- R103: identifiers read from a payload are written as that payload. -/
theorem idBytes_of_parseIds : ∀ {payload : List Byte} {ids : List Word},
    parseIds payload = some ids → idBytes ids = payload
  | [], _, h => by cases h; rfl
  | [_], _, h => by cases h
  | lo :: hi :: rest, _, h => by
    obtain ⟨ws, hws, rfl⟩ := Option.map_eq_some_iff.1 h
    change lowByte (u16le lo hi) :: highByte (u16le lo hi) :: idBytes ws = lo :: hi :: rest
    rw [lowByte_u16le, highByte_u16le, idBytes_of_parseIds hws]

/-- R104: what a descriptor must have to have bytes, and the bytes. -/
theorem encodeDesc_eq_some {sensorId : Word} {d : ModelDesc} {bytes : List Byte} :
    encodeDesc sensorId d = some bytes ↔
      d.config.length = (if d.modelId = sensorId then 10 else 0) ∧
        lowByte d.modelId :: highByte d.modelId :: d.config = bytes := by
  rw [encodeDesc, Option.ite_none_right_eq_some, Option.some_inj]

theorem encodeDescs_cons_eq_some {sensorId : Word} {d : ModelDesc} {ds : List ModelDesc} {bytes : List Byte} :
    encodeDescs sensorId (d :: ds) = some bytes ↔
      ∃ b bs, encodeDesc sensorId d = some b ∧ encodeDescs sensorId ds = some bs ∧ b ++ bs = bytes := by
  rw [encodeDescs]
  cases encodeDesc sensorId d <;> cases encodeDescs sensorId ds <;> simp

/-- R104: a descriptor of the reserved identifier takes 10 bytes more from the payload. -/
theorem parseDescs_cons_sensor {sensorId : Word} {lo hi : Byte} (h : u16le lo hi = sensorId) (fuel : Nat)
    (rest : List Byte) :
    parseDescs sensorId (fuel + 1) (lo :: hi :: rest) =
      if rest.length < 10 then none
      else (parseDescs sensorId fuel (rest.drop 10)).map (⟨u16le lo hi, rest.take 10⟩ :: ·) := by
  rw [parseDescs]
  exact if_pos h

/-- R104: every other descriptor is its identifier. -/
theorem parseDescs_cons_other {sensorId : Word} {lo hi : Byte} (h : u16le lo hi ≠ sensorId) (fuel : Nat)
    (rest : List Byte) :
    parseDescs sensorId (fuel + 1) (lo :: hi :: rest) =
      (parseDescs sensorId fuel rest).map (⟨u16le lo hi, []⟩ :: ·) := by
  rw [parseDescs]
  exact if_neg h

/-- R104: descriptors read from a payload are written as that payload. -/
theorem encodeDescs_of_parseDescs {sensorId : Word} {fuel : Nat} {payload : List Byte} {ds : List ModelDesc}
    (h : parseDescs sensorId fuel payload = some ds) : encodeDescs sensorId ds = some payload := by
  induction fuel generalizing payload ds with
  | zero =>
    cases payload with
    | nil => cases h; rfl
    | cons b rest => simp [parseDescs] at h
  | succ fuel ih =>
    match payload, h with
    | [], h => cases h; rfl
    | [_], h => cases h
    | lo :: hi :: rest, h =>
      by_cases hid : u16le lo hi = sensorId
      · rw [parseDescs_cons_sensor hid] at h
        split_ifs at h with hlen
        obtain ⟨ds', hds', rfl⟩ := Option.map_eq_some_iff.1 h
        refine encodeDescs_cons_eq_some.2
          ⟨lo :: hi :: rest.take 10, rest.drop 10, encodeDesc_eq_some.2 ⟨?_, ?_⟩, ih hds', ?_⟩
        · rw [if_pos hid, List.length_take]
          omega
        · rw [lowByte_u16le, highByte_u16le]
        · simp
      · rw [parseDescs_cons_other hid] at h
        obtain ⟨ds', hds', rfl⟩ := Option.map_eq_some_iff.1 h
        refine encodeDescs_cons_eq_some.2 ⟨[lo, hi], rest, encodeDesc_eq_some.2 ⟨?_, ?_⟩, ih hds', rfl⟩
        · rw [if_neg hid, List.length_nil]
        · rw [lowByte_u16le, highByte_u16le]

/-- R104: descriptors written are read back. -/
theorem parseDescs_of_encodeDescs {sensorId : Word} {fuel : Nat} {payload : List Byte} {ds : List ModelDesc}
    (h : encodeDescs sensorId ds = some payload) (hfuel : payload.length ≤ fuel) :
    parseDescs sensorId fuel payload = some ds := by
  induction ds generalizing fuel payload with
  | nil =>
    cases h
    cases fuel <;> rfl
  | cons d ds ih =>
    obtain ⟨b, bs, hd, hds, rfl⟩ := encodeDescs_cons_eq_some.1 h
    obtain ⟨hconfig, rfl⟩ := encodeDesc_eq_some.1 hd
    simp only [List.cons_append, List.length_cons, List.length_append] at hfuel ⊢
    obtain ⟨fuel, rfl⟩ : ∃ k, fuel = k + 1 := ⟨fuel - 1, by omega⟩
    have hrest := ih (fuel := fuel) hds (by omega)
    by_cases hid : d.modelId = sensorId
    · rw [if_pos hid] at hconfig
      rw [parseDescs_cons_sensor (by rw [u16le_lowByte_highByte, hid]), u16le_lowByte_highByte,
        if_neg (by rw [List.length_append]; omega), List.drop_left' hconfig, List.take_left' hconfig, hrest]
      rfl
    · rw [if_neg hid] at hconfig
      rw [parseDescs_cons_other (by rwa [u16le_lowByte_highByte]), u16le_lowByte_highByte]
      obtain ⟨id, config⟩ := d
      obtain rfl : config = [] := List.length_eq_zero_iff.1 hconfig
      rw [List.nil_append, hrest]
      rfl

theorem subLength_one {size : NestedSize} (hw : size.w = .one) (payload : List Byte) :
    subLength size payload = payload[size.o]?.map BitVec.toNat := by
  rw [subLength, hw]
  cases payload[size.o]? <;> rfl

theorem subLength_two {size : NestedSize} (hw : size.w = .two) (payload : List Byte) :
    subLength size payload = payload[size.o]?.bind fun lo =>
      payload[size.o + 1]?.map fun hi => (u16le lo hi).toNat := by
  rw [subLength, hw]
  cases payload[size.o]? <;> cases payload[size.o + 1]? <;> rfl

/-- R108: the sub-length field lies inside the fixed part, so the blob does not move it. -/
theorem subLength_append {size : NestedSize} {fixedPart : List Byte} (h : fixedPart.length = size.f)
    (blob : List Byte) : subLength size (fixedPart ++ blob) = subLength size fixedPart := by
  have hin := size.inside
  cases hw : size.w with
  | one =>
    rw [hw, SubWidth.bytes] at hin
    rw [subLength_one hw, subLength_one hw, List.getElem?_append_left (by omega)]
  | two =>
    rw [hw, SubWidth.bytes] at hin
    rw [subLength_two hw, subLength_two hw, List.getElem?_append_left (by omega),
      List.getElem?_append_left (by omega)]

theorem set_of_getElem? {bs : List Byte} {i : Nat} {b : Byte} (h : bs[i]? = some b) : bs.set i b = bs := by
  obtain ⟨hi, rfl⟩ := List.getElem?_eq_some_iff.1 h
  exact List.set_getElem_self hi

/-- R112, R246: a fixed part whose sub-length field agrees is written as it stands. -/
theorem setSubLength_of_subLength {size : NestedSize} {fixedPart : List Byte} {n : Nat}
    (h : subLength size fixedPart = some n) : setSubLength size n fixedPart = fixedPart := by
  cases hw : size.w with
  | one =>
    rw [subLength_one hw] at h
    obtain ⟨b, hb, rfl⟩ := Option.map_eq_some_iff.1 h
    rw [setSubLength, hw]
    exact set_of_getElem? (by rw [hb, BitVec.ofNat_toNat, BitVec.setWidth_eq])
  | two =>
    rw [subLength_two hw] at h
    obtain ⟨lo, hlo, h⟩ := Option.bind_eq_some_iff.1 h
    obtain ⟨hi, hhi, rfl⟩ := Option.map_eq_some_iff.1 h
    rw [setSubLength, hw]
    simp only [BitVec.ofNat_toNat, BitVec.setWidth_eq, lowByte_u16le, highByte_u16le]
    rw [set_of_getElem? hlo, set_of_getElem? hhi]

/-- R108: a NESTED payload is a fixed part and a blob of as many bytes as the sub-length field says. -/
theorem parseNested_eq_some {size : NestedSize} {payload : List Byte} {fields : Fields} :
    parseNested size payload = some fields ↔ ∃ fixedPart blob, fields = .nested fixedPart blob ∧
      fixedPart.length = size.f ∧ subLength size fixedPart = some blob.length ∧ payload = fixedPart ++ blob := by
  constructor
  · intro h
    unfold parseNested at h
    split_ifs at h with hlen hsub
    cases h
    have hf : (payload.take size.f).length = size.f := by
      rw [List.length_take]
      omega
    refine ⟨_, _, rfl, hf, ?_, (List.take_append_drop _ _).symm⟩
    rw [← subLength_append hf (payload.drop size.f), List.take_append_drop, List.length_drop, hsub]
  · rintro ⟨fixedPart, blob, rfl, hf, hsub, rfl⟩
    rw [parseNested, if_neg (by rw [List.length_append]; omega), subLength_append hf, hsub, if_pos,
      List.take_left' hf, List.drop_left' hf]
    rw [List.length_append, hf, Nat.add_sub_cancel_left]

/-- R112, R246: fields read from a payload are a value of the shape, and the payload is their encoding. -/
theorem encodeFields_of_parseFields {p : Params} {shape : Shape} {payload : List Byte} {fields : Fields}
    (h : parseFields p shape payload = some fields) :
    encodeFields p shape fields = some payload ∧ SubLengthAgrees shape fields := by
  cases shape with
  | zero =>
    obtain ⟨rfl, hf⟩ := Option.ite_none_right_eq_some.1 h
    cases hf
    exact ⟨rfl, trivial⟩
  | blob =>
    cases h
    exact ⟨rfl, trivial⟩
  | list16 =>
    obtain ⟨ids, hids, rfl⟩ := Option.map_eq_some_iff.1 h
    exact ⟨congrArg some (idBytes_of_parseIds hids), trivial⟩
  | mdlist =>
    obtain ⟨ds, hds, rfl⟩ := Option.map_eq_some_iff.1 h
    exact ⟨encodeDescs_of_parseDescs hds, trivial⟩
  | fixed n =>
    obtain ⟨hn, hf⟩ := Option.ite_none_right_eq_some.1 h
    cases hf
    exact ⟨if_pos hn, trivial⟩
  | nested size =>
    obtain ⟨fixedPart, blob, rfl, hf, hsub, rfl⟩ := parseNested_eq_some.1 h
    refine ⟨?_, hsub⟩
    rw [encodeFields, if_pos hf, setSubLength_of_subLength hsub]

/-- R112, R248: the encoding of a value is accepted with that value. -/
theorem parseFields_of_encodeFields {p : Params} {shape : Shape} {payload : List Byte} {fields : Fields}
    (h : encodeFields p shape fields = some payload) (hsub : SubLengthAgrees shape fields) :
    parseFields p shape payload = some fields := by
  match shape, fields, h with
  | .zero, .empty, h => cases h; rfl
  | .blob, .blob data, h => cases h; rfl
  | .list16, .list16 ids, h =>
    cases h
    exact congrArg (Option.map Fields.list16) (parseIds_idBytes ids)
  | .mdlist, .mdlist ds, h =>
    exact congrArg (Option.map Fields.mdlist) (parseDescs_of_encodeDescs h le_rfl)
  | .fixed n, .fixed bytes, h =>
    obtain ⟨hn, hb⟩ := Option.ite_none_right_eq_some.1 h
    cases hb
    exact if_pos hn
  | .nested size, .nested fixedPart blob, h =>
    obtain ⟨hf, hb⟩ := Option.ite_none_right_eq_some.1 h
    rw [setSubLength_of_subLength hsub] at hb
    exact parseNested_eq_some.2 ⟨fixedPart, blob, rfl, hf, hsub, (Option.some_inj.1 hb).symm⟩

/-- Settles O38: shape by shape, both directions. -/
theorem shapesAcceptExactlyTheirEncodings : Obligations.ShapesAcceptExactlyTheirEncodings :=
  fun _ _ _ _ => ⟨encodeFields_of_parseFields, fun ⟨h, hsub⟩ => parseFields_of_encodeFields h hsub⟩

/-- Descriptors all of the form of R104 have bytes. -/
theorem encodeDescs_of_forall {sensorId : Word} {ds : List ModelDesc}
    (h : ∀ d ∈ ds, d.config.length = if d.modelId = sensorId then 10 else 0) :
    encodeDescs sensorId ds =
      some (ds.flatMap fun d => lowByte d.modelId :: highByte d.modelId :: d.config) := by
  induction ds with
  | nil => rfl
  | cons d ds ih =>
    obtain ⟨hd, hds⟩ := List.forall_mem_cons.1 h
    exact encodeDescs_cons_eq_some.2 ⟨_, _, encodeDesc_eq_some.2 ⟨hd, rfl⟩, ih hds, rfl⟩

/-- What has bytes is descriptors of the form of R104. -/
theorem forall_of_encodeDescs {sensorId : Word} {ds : List ModelDesc} {bytes : List Byte}
    (h : encodeDescs sensorId ds = some bytes) :
    ∀ d ∈ ds, d.config.length = if d.modelId = sensorId then 10 else 0 := by
  induction ds generalizing bytes with
  | nil => nofun
  | cons d ds ih =>
    obtain ⟨b, bs, hd, hds, -⟩ := encodeDescs_cons_eq_some.1 h
    exact List.forall_mem_cons.2 ⟨(encodeDesc_eq_some.1 hd).1, ih hds⟩

/-- R10: the value of two bytes, low byte first. -/
theorem u16le_toNat (lo hi : Byte) : (u16le lo hi).toNat = lo.toNat + 256 * hi.toNat := by
  have hlo := lo.isLt
  have hhi := hi.isLt
  have hor := Nat.shiftLeft_add_eq_or_of_lt (i := 8) hlo hi.toNat
  rw [Nat.shiftLeft_eq] at hor
  rw [u16le, BitVec.or_comm, BitVec.toNat_or, BitVec.toNat_shiftLeft, BitVec.toNat_setWidth,
    BitVec.toNat_setWidth, Nat.mod_eq_of_lt (by omega), Nat.mod_eq_of_lt (by omega), Nat.shiftLeft_eq,
    Nat.mod_eq_of_lt (by omega)]
  omega

theorem lowByte_ofNat (n : Nat) : lowByte (BitVec.ofNat 16 n) = BitVec.ofNat 8 n := by
  apply BitVec.eq_of_toNat_eq
  simp only [lowByte, BitVec.extractLsb'_toNat, BitVec.toNat_ofNat, Nat.shiftRight_zero]
  omega

theorem highByte_ofNat (n : Nat) : highByte (BitVec.ofNat 16 n) = BitVec.ofNat 8 (n / 256) := by
  apply BitVec.eq_of_toNat_eq
  simp only [highByte, BitVec.extractLsb'_toNat, BitVec.toNat_ofNat, Nat.shiftRight_eq_div_pow]
  omega

/-- R108: a payload that begins with a fixed part is accepted exactly if the sub-length field counts the blob. -/
theorem parseFields_nested {p : Params} {size : NestedSize} {fixedPart : List Byte} {n : Nat}
    (hf : fixedPart.length = size.f) (hsub : subLength size fixedPart = some n) (blob : List Byte) :
    parseFields p (.nested size) (fixedPart ++ blob) =
      if n = blob.length then some (.nested fixedPart blob) else none := by
  rw [parseFields, parseNested, if_neg (by rw [List.length_append]; omega), subLength_append hf, hsub,
    List.length_append, hf, Nat.add_sub_cancel_left, List.take_left' hf, List.drop_left' hf]
  simp only [Option.some_inj]

/-- R246: the encoding of a NESTED value with a fixed part of the right size. -/
theorem encodeFields_nested {p : Params} {size : NestedSize} {fixedPart : List Byte}
    (hf : fixedPart.length = size.f) (blob : List Byte) :
    encodeFields p (.nested size) (.nested fixedPart blob) =
      some (setSubLength size blob.length fixedPart ++ blob) := if_pos hf

/-- Settles O39: the two NESTED clauses read and write the field at its place in the fixed part; the others are the
shapes' own equations. -/
theorem shapesHaveTheirBytes : Obligations.ShapesHaveTheirBytes := by
  intro p
  refine ⟨fun data => ⟨rfl, rfl, fun n => rfl⟩,
    fun ids => ⟨rfl, congrArg (Option.map Fields.list16) (parseIds_idBytes ids)⟩,
    fun payload hodd => congrArg (Option.map Fields.list16) (parseIds_of_odd hodd),
    fun descs => ⟨encodeDescs_of_forall, fun ⟨d, hd, hne⟩ => ?_⟩, ?_, ?_⟩
  · cases henc : encodeFields p .mdlist (.mdlist descs) with
    | none => rfl
    | some bytes => exact absurd (forall_of_encodeDescs henc d hd) hne
  · intro size front back blob x hw hfront hsize
    have hf : (front ++ x :: back).length = size.f := by
      rw [List.length_append, List.length_cons]
      omega
    have hsub : subLength size (front ++ x :: back) = some x.toNat := by
      rw [subLength_one hw, ← hfront, List.getElem?_append_right le_rfl]
      simp
    refine ⟨?_, parseFields_nested hf hsub blob⟩
    rw [encodeFields_nested hf, setSubLength, hw, ← hfront]
    simp
  · intro size front back blob x y hw hfront hsize
    have hf : (front ++ x :: y :: back).length = size.f := by
      rw [List.length_append, List.length_cons, List.length_cons]
      omega
    have hsub : subLength size (front ++ x :: y :: back) = some (x.toNat + 256 * y.toNat) := by
      rw [subLength_two hw, ← hfront, List.getElem?_append_right le_rfl,
        List.getElem?_append_right (Nat.le_succ _), ← u16le_toNat]
      simp
    refine ⟨?_, parseFields_nested hf hsub blob⟩
    rw [encodeFields_nested hf, setSubLength, hw, ← hfront, lowByte_ofNat, highByte_ofNat]
    simp

end Sys2Proof.Machine
end

section
/-! PROOFS. Messages: DECODE and SERIALIZE (43_mux.md section 1, 44_tx_framer.md), and the operations that answer with
them. -/

namespace Sys2Proof.Machine

/-- R96: LENGTH of a payload of at most 255 bytes counts it. -/
theorem toNat_length {payload : List Byte} (h : payload.length ≤ 255) :
    (BitVec.ofNat 8 payload.length).toNat = payload.length := by
  rw [BitVec.toNat_ofNat]
  omega

/-- R96: a MSG written out is the MSG of its opcode and payload. -/
theorem msg_of_length {l : Byte} {payload : List Byte} (h : payload.length = l.toNat) (op : Byte) :
    msg op payload = l :: op :: payload := by
  rw [msg, h, BitVec.ofNat_toNat, BitVec.setWidth_eq]

/-- R107: GENERIC is never yielded. -/
theorem lookup_generic (p : Params) : lookup p opcodeGeneric = none := rfl

theorem decodeMsg_of_lookup_none {p : Params} {op : Byte} (h : lookup p op = none) (l : Byte)
    (payload : List Byte) : decodeMsg p (l :: op :: payload) = .error .opcodeMismatch := by
  simp only [decodeMsg, h]

theorem decodeMsg_of_length_ne {p : Params} {l op : Byte} {e : Row} {payload : List Byte}
    (he : lookup p op = some e) (h : payload.length ≠ l.toNat) :
    decodeMsg p (l :: op :: payload) = .error .lengthMismatch := by
  simp only [decodeMsg, he, if_neg h]

theorem decodeMsg_of_length_lt_two (p : Params) : ∀ {pf : List Byte}, pf.length < 2 →
    decodeMsg p pf = .error .lengthMismatch
  | [], _ => rfl
  | [_], _ => rfl
  | _ :: _ :: _, h => absurd h (by simp)

/-- Settles O36: DECODE's cases, one after the other. -/
theorem decodeChecksInOrder : Obligations.DecodeChecksInOrder := by
  intro p
  refine ⟨fun pf h => decodeMsg_of_length_lt_two p h, fun l op payload => ?_⟩
  cases he : lookup p op with
  | none => exact decodeMsg_of_lookup_none he l payload
  | some e =>
    by_cases hlen : payload.length = l.toNat
    · rw [decodeMsg_of_lookup he hlen]
      simp only [ne_eq, hlen, not_true_eq_false, if_false]
      cases hf : parseFields p e.shape payload with
      | none => exact parse_of_none hf op
      | some fields => exact parse_of_some hf op
    · rw [decodeMsg_of_length_ne he hlen]
      exact (if_pos hlen).symm

/-- R201: what is decoded is a MSG of a row of the table whose payload has the row's shape. -/
theorem decodeMsg_eq_ok {p : Params} {pf : List Byte} {m : Message} (h : decodeMsg p pf = .ok m) :
    ∃ l op payload e fields, pf = l :: op :: payload ∧ lookup p op = some e ∧ payload.length = l.toNat ∧
      parseFields p e.shape payload = some fields ∧ m = ⟨op, e.name, fields⟩ := by
  match pf, h with
  | [], h => cases h
  | [_], h => cases h
  | l :: op :: payload, h =>
    cases he : lookup p op with
    | none => rw [decodeMsg_of_lookup_none he] at h; cases h
    | some e =>
      by_cases hlen : payload.length = l.toNat
      · rw [decodeMsg_of_lookup he hlen] at h
        cases hf : parseFields p e.shape payload with
        | none => rw [parse_of_none hf] at h; cases h
        | some fields =>
          rw [parse_of_some hf] at h
          cases h
          exact ⟨l, op, payload, e, fields, rfl, he, hlen, hf, rfl⟩
      · rw [decodeMsg_of_length_ne he hlen] at h
        cases h

/-- R240: what SERIALIZE can come to, case by case. -/
theorem serializeMsg_of_encodeRow_none {p : Params} {op : Byte} (h : encodeRow p op = none) (fields : Fields) :
    serializeMsg p op fields = .error .opcodeMismatch := by
  simp only [serializeMsg, h]

theorem serializeMsg_of_encodeFields_none {p : Params} {op : Byte} {e : Row} {fields : Fields}
    (he : encodeRow p op = some e) (h : encodeFields p e.shape fields = none) :
    serializeMsg p op fields = .notAValue := by
  simp only [serializeMsg, he, h]

theorem serializeMsg_of_length_gt {p : Params} {op : Byte} {e : Row} {fields : Fields} {body : List Byte}
    (he : encodeRow p op = some e) (hb : encodeFields p e.shape fields = some body)
    (hlen : maxLength < body.length) : serializeMsg p op fields = .error .lengthMismatch := by
  simp only [serializeMsg, he, hb, if_pos hlen]

/-- R240: bytes come from the row's encoding of at most 255 bytes. -/
theorem serializeMsg_eq_bytes {p : Params} {op : Byte} {fields : Fields} {pf : List Byte}
    (h : serializeMsg p op fields = .bytes pf) :
    ∃ e body, encodeRow p op = some e ∧ encodeFields p e.shape fields = some body ∧
      body.length ≤ maxLength ∧ pf = msg op body := by
  cases he : encodeRow p op with
  | none => rw [serializeMsg_of_encodeRow_none he] at h; cases h
  | some e =>
    cases hb : encodeFields p e.shape fields with
    | none => rw [serializeMsg_of_encodeFields_none he hb] at h; cases h
    | some body =>
      rcases le_or_gt body.length maxLength with hle | hgt
      · rw [serializeMsg_of_encodeFields he hb hle] at h
        cases h
        exact ⟨e, body, rfl, hb, hle, rfl⟩
      · rw [serializeMsg_of_length_gt he hb hgt] at h
        cases h

/-- Settles O41: the bytes are the MSG of an encoding, and the shape accepts its own encodings. -/
theorem serializeThenDecodeGivesTheMessage : Obligations.SerializeThenDecodeGivesTheMessage := by
  intro p op fields e pf hop he hsub hser
  obtain ⟨e', body, he', hb, hlen, rfl⟩ := serializeMsg_eq_bytes hser
  rw [encodeRow_of_ne p hop, he] at he'
  cases he'
  have hlength := (toNat_length hlen).symm
  refine ⟨isMsg_of_length hlength op, ?_⟩
  rw [msg, decodeMsg_of_lookup he hlength]
  exact parse_of_some (parseFields_of_encodeFields hb hsub) op

/-- Settles O42: what a shape accepts is the encoding of the fields it gives. -/
theorem decodedMessageSerializesBack : Obligations.DecodedMessageSerializesBack := by
  intro p pf m h
  obtain ⟨l, op, payload, e, fields, rfl, he, hlen, hf, rfl⟩ := decodeMsg_eq_ok h
  have hop : op ≠ opcodeGeneric := by
    rintro rfl
    rw [lookup_generic] at he
    cases he
  have hmax : payload.length ≤ maxLength := by
    rw [hlen]
    exact Nat.le_of_lt_succ l.isLt
  rw [serializeMsg_of_encodeFields ((encodeRow_of_ne p hop).trans he) (encodeFields_of_parseFields hf).1 hmax,
    msg_of_length hlen]

theorem lookup_of_ne (p : Params) {op : Byte} (h1 : op ≠ 0x01) (h3 : op ≠ 0x03) (h9 : op ≠ 0x09) :
    lookup p op = if 0x01 ≤ op.toNat ∧ op.toNat ≤ 0x8C then p.table op else none := by
  rw [lookup, if_neg h1, if_neg h3, if_neg h9]

/-- Settles O37: the fixed rows, the two unassigned ranges and the rows left to the table. -/
theorem opcodePartition : Obligations.OpcodePartition := by
  intro p op
  refine ⟨rfl, rfl, rfl, fun h => ?_, fun h0 hle h1 h3 h9 => ?_⟩
  · have hne (v : Byte) (hv : v = 0x01 ∨ v = 0x03 ∨ v = 0x09) : op ≠ v := by
      rintro rfl
      rcases hv with rfl | rfl | rfl <;> exact absurd h (by decide)
    rw [lookup_of_ne p (hne _ (.inl rfl)) (hne _ (.inr (.inl rfl))) (hne _ (.inr (.inr rfl)))]
    refine if_neg fun ⟨hpos, hle⟩ => ?_
    rcases h with rfl | hge
    · exact absurd hpos (by decide)
    · omega
  · have hpos : op.toNat ≠ 0 := fun h => h0 (BitVec.eq_of_toNat_eq h)
    rw [lookup_of_ne p h1 h3 h9, if_pos ⟨Nat.one_le_iff_ne_zero.2 hpos, hle⟩]

/-- Settles O35: DISPATCH by what DECODE gives; its error is never CrcMismatch. -/
theorem dispatchDeliversOrDrops : Obligations.DispatchDeliversOrDrops := by
  intro s pf
  change Host.Outcome.next (dispatchMsg pf s) = _
  rcases dispatchMsg_eq pf s with ⟨m, hm, h⟩ | ⟨e, he, h⟩
  · rw [h, hm]
    rfl
  · rw [h, he]
    cases e with
    | crcMismatch => exact absurd he (decodeMsg_ne_crcMismatch _ pf)
    | opcodeMismatch | lengthMismatch => rfl

/-- The row DESERIALIZE appends its result to the answers and does nothing else. -/
theorem exec_deserialize (buf : List Byte) (s : State) :
    exec (.deserialize buf) s = .next (s.answer (decodeResult (decodeMsg Config.params buf))) := rfl

/-- Settles O43: the result of DECODE, message or error. -/
theorem deserializeAnswers : Obligations.DeserializeAnswers := by
  intro s buf
  refine ⟨fun m h => ?_, fun e h => ?_⟩
  · rw [exec_deserialize, h]
    rfl
  · rw [exec_deserialize, h]
    rfl

/-- SERIALIZE and SEND by what SERIALIZE comes to (R240, R242). -/
theorem exec_serialize_of_bytes {op : Byte} {fields : Fields} {pf : List Byte}
    (h : serializeMsg Config.params op fields = .bytes pf) (s : State) :
    exec (.serialize op fields) s = .next (s.answer (.bytes pf)) := by
  simp only [exec, execSerialize, h]

theorem exec_serialize_of_error {op : Byte} {fields : Fields} {e : Err}
    (h : serializeMsg Config.params op fields = .error e) (s : State) :
    exec (.serialize op fields) s = .next (s.answer (.error e)) := by
  simp only [exec, execSerialize, h]

theorem exec_serialize_of_notAValue {op : Byte} {fields : Fields}
    (h : serializeMsg Config.params op fields = .notAValue) (s : State) :
    exec (.serialize op fields) s = .refused .notAValue := by
  simp only [exec, execSerialize, h]

theorem exec_send_of_bytes {op : Byte} {fields : Fields} {pf : List Byte}
    (h : serializeMsg Config.params op fields = .bytes pf) (s : State) :
    exec (.send op fields) s = .next (s.handOver (wrapMsg pf)) := by
  simp only [exec, execSend, h]

theorem exec_send_of_error {op : Byte} {fields : Fields} {e : Err}
    (h : serializeMsg Config.params op fields = .error e) (s : State) :
    exec (.send op fields) s = .next (s.answer (.error e)) := by
  simp only [exec, execSend, h]

theorem exec_send_of_notAValue {op : Byte} {fields : Fields}
    (h : serializeMsg Config.params op fields = .notAValue) (s : State) :
    exec (.send op fields) s = .refused .notAValue := by
  simp only [exec, execSend, h]

/-- Settles O48: SERIALIZE's cases; GENERIC's row writes the data as they are. -/
theorem serializeAnswers : Obligations.SerializeAnswers := by
  refine ⟨fun s op fields => ⟨fun hrow => ?_, fun e body he hb => ⟨fun hgt => ?_, fun hle => ?_⟩⟩,
    fun s data hle => ?_⟩
  · exact exec_serialize_of_error (serializeMsg_of_encodeRow_none hrow fields) s
  · exact exec_serialize_of_error (serializeMsg_of_length_gt he hb hgt) s
  · exact exec_serialize_of_bytes (serializeMsg_of_encodeFields he hb hle) s
  · exact exec_serialize_of_bytes (serializeMsg_of_encodeFields (e := genericRow) rfl rfl hle) s

/-- Settles O49: one chunk on success, the error otherwise; the example is ZERO_ARG_REQ_09's frame. -/
theorem sendHandsOverOneFrame : Obligations.SendHandsOverOneFrame := by
  refine fun s op fields => ⟨fun pf h => exec_send_of_bytes h s, ?_, fun e h => exec_send_of_error h s⟩
  rw [exec_send_of_bytes (serializeMsg_zeroArgReq09 _), wrapMsg_zeroArgReq09]
  rfl

/-- R96: what has not the form LENGTH, OPCODE, LENGTH bytes is no MSG. -/
theorem isMsg_eq_false : ∀ {pf : List Byte},
    (∀ (l op : Byte) (payload : List Byte), pf = l :: op :: payload → payload.length ≠ l.toNat) →
    isMsg pf = false
  | [], _ => rfl
  | [_], _ => rfl
  | l :: op :: payload, h => beq_eq_false_iff_ne.2 (h l op payload rfl)

/-- Settles O46: VALIDATE reads the 6 + L bytes only and always answers; the others are refused outside their
operand domain. -/
theorem operandsOutsideTheirDomain : Obligations.OperandsOutsideTheirDomain := by
  refine ⟨fun s b0 b1 l op crcl crch payload after h => ?_, fun cand _ => ⟨verdictOf cand, exec_validate cand⟩,
    fun s pf h => ?_, fun s op fields e he hf => ?_⟩
  · rw [exec_validate, verdictOf_eq_check h, State.answer, check, u16le]
  · exact if_neg (by rw [isMsg_eq_false h]; exact Bool.false_ne_true)
  · have hser := serializeMsg_of_encodeFields_none he hf
    exact ⟨exec_serialize_of_notAValue hser s, exec_send_of_notAValue hser s⟩

/-- Settles O50: a present observer, the capacity, an append; the filter leaves a list without the observer as it
is. -/
theorem registerAndUnregister : Obligations.RegisterAndUnregister := by
  refine fun s o => ⟨?_, rfl, fun h => ?_⟩
  · change execRegisterObserver o s = _
    unfold execRegisterObserver
    by_cases hmem : o ∈ s.obs
    · rw [if_pos hmem, if_pos hmem]
    · rw [if_neg hmem, if_neg hmem]
      rcases lt_or_ge s.obs.length Config.params.nObs with hlt | hge
      · rw [if_neg hlt.not_ge, if_pos hlt]
      · rw [if_pos hge, if_neg hge.not_gt]
        rfl
  · have hall : s.obs.filter (· ≠ o) = s.obs :=
      List.filter_eq_self.2 fun x hx => decide_eq_true fun hxo => h (hxo ▸ hx)
    change execUnregisterObserver o s = _
    rw [execUnregisterObserver, hall]

end Sys2Proof.Machine
end

section
/-! PROOFS. A whole frame received from phase HUNT (41_reassembler.md section 2, 43_mux.md section 2): what it leaves
in the registers and the frame buffer, and what becomes of its message. -/

namespace Sys2Proof.Machine

theorem ph_crclo_of_remaining {s : State} (h : PhaseInv s) (hr : remaining s = 2) : s.ph = .crclo := by
  cases hp : s.ph with
  | crclo => rfl
  | hunt | hunt55 | len | opc | crchi => simp [remaining, hp] at hr
  | pay =>
    have hcnt := ((phaseInv_pay hp).1 h).1
    simp only [remaining, hp] at hr
    omega

/-- R151 to R153: from phase HUNT the preamble and LENGTH begin a candidate. -/
theorem receiveBytes_header {s : State} (hp : s.ph = .hunt) (l : Byte) :
    ∃ t, receiveBytes [preamble0, preamble1, l] s = .next t ∧ Quiet s t [preamble0, preamble1, l] ∧
      PhaseInv t ∧ t.ph = .opc ∧ t.len = l := by
  have h0 : receiveByte preamble0 s = .next { s with ph := .hunt55 } := by rw [receiveByte, hp]; rfl
  have h1 : receiveByte preamble1 { s with ph := .hunt55 } =
      .next { s with ph := .len, crc := crcInit, fbn := 0 } := rfl
  obtain ⟨t, ht, hquiet, hinv, hph, hlen⟩ :=
    receiveByte_len (s := { s with ph := .len, crc := crcInit, fbn := 0 })
      ((phaseInv_len rfl).2 ⟨rfl, rfl⟩) rfl l
  refine ⟨t, ?_, (quiet_hunt hp).trans ((quiet_hunt55 rfl).trans hquiet), hinv, hph, hlen⟩
  rw [receiveBytes, h0, andThen_next, receiveBytes, h1, andThen_next, receiveBytes_singleton, ht]

/-- R151 to R155: from phase HUNT the preamble and a MSG are collected, and the trailer is awaited. -/
theorem receiveBytes_msg {s : State} (hp : s.ph = .hunt) {payload : List Byte} (hlen : payload.length ≤ 255)
    (op : Byte) :
    ∃ t, receiveBytes (preamble0 :: preamble1 :: msg op payload) s = .next t ∧
      Quiet s t (preamble0 :: preamble1 :: msg op payload) ∧ PhaseInv t ∧ t.ph = .crclo ∧
      t.len.toNat = payload.length ∧ t.body = msg op payload := by
  obtain ⟨u, hu, hquiet, hinv, hph, hl⟩ := receiveBytes_header hp (BitVec.ofNat 8 payload.length)
  have hlength : u.len.toNat = payload.length := by rw [hl, toNat_length hlen]
  have hrem : remaining u = payload.length + 3 := by simp only [remaining, hph, hlength]
  obtain ⟨t, ht, hquiet', hinv', hl', hrem'⟩ :=
    receiveBytes_of_remaining (c := op :: payload) hinv (by rw [List.length_cons]; omega)
  rw [List.length_cons] at hrem'
  have hph' := ph_crclo_of_remaining hinv' (by omega)
  have hall := hquiet.trans hquiet'
  refine ⟨t, ?_, hall, hinv', hph', by rw [hl', hlength], ?_⟩
  · rw [show preamble0 :: preamble1 :: msg op payload =
      [preamble0, preamble1, BitVec.ofNat 8 payload.length] ++ op :: payload from rfl, receiveBytes_append, hu]
    exact ht
  · have hpend := hall.pending
    rw [pending_of_holdsBody (by rw [hph']; rfl), pending_hunt hp] at hpend
    exact List.cons_injective (List.cons_injective hpend)

/-- The state in which a frame's last byte arrives, however the candidate ends, is that of a received frame. -/
theorem receivedFrame_of_quiet {s t : State} {op : Byte} {payload : List Byte} (hp : s.ph = .hunt)
    (h : Quiet s t (preamble0 :: preamble1 :: msg op payload)) (hinv : PhaseInv t) (hph : t.ph = .crclo)
    (hlen : t.len.toNat = payload.length) (hbody : t.body = msg op payload) (crcl : Byte)
    (status : BitVec 4) (out : List OutEvent) :
    ReceivedFrame s { t with crcLo := crcl, status := status, out := out, ph := .hunt } op payload crcl := by
  obtain ⟨hcnt, hfbn, hcov⟩ := (phaseInv_crc (.inl hph)).1 hinv
  obtain ⟨hcol, -⟩ := (covered_iff hfbn).1 hcov
  rw [hlen] at hfbn
  have hread := hcol.read
  have hcrc := hcol.crc
  rw [hfbn, hbody] at hread
  rw [hbody] at hcrc
  refine ⟨rfl, hcrc, hlen, (congrArg BitVec.toNat hcnt).trans hlen, hfbn, rfl, hread, fun a ha => ?_,
    h.obs, h.inbox, h.returns, h.tx⟩
  refine h.kept a ?_
  rw [h.pending, pending_hunt hp]
  simp only [msg, List.nil_append, List.length_cons]
  omega

/-- What DISPATCH of a payload-frame emits to the observers present (R200, R203, R204, R225). -/
def dispatchEvents (pf : List Byte) (obs : List ObserverId) : List OutEvent :=
  match decodeMsg Config.params pf with
  | .ok m => obs.map fun o => .deliver o m
  | .error e => [e.event pf]

/-- The flag DISPATCH of a payload-frame sets, if any (R203, R204). -/
def dispatchFlag (pf : List Byte) : BitVec 4 :=
  match decodeMsg Config.params pf with
  | .ok _ => 0
  | .error e => e.flag

theorem dispatchMsg_eq_update (pf : List Byte) (s : State) :
    dispatchMsg pf s =
      { s with status := s.status ||| dispatchFlag pf, out := s.out ++ dispatchEvents pf s.obs } := by
  unfold dispatchMsg dispatchFlag dispatchEvents
  cases decodeMsg Config.params pf with
  | ok m =>
    have hnone : s.status ||| 0 = s.status := BitVec.or_zero
    simp only [hnone]
    rfl
  | error e => rfl

/-- R183, R184: a whole frame from phase HUNT. With its CRC it is emitted and dispatched, else it is dropped. -/
theorem receiveFrame_of_hunt {s : State} (hp : s.ph = .hunt) {payload : List Byte}
    (hlen : payload.length ≤ 255) (op crcl crch : Byte) :
    ∃ t, receiveFrame op payload crcl crch s = .next t ∧ ReceivedFrame s t op payload crcl ∧
      if u16le crcl crch = crc16 (msg op payload) then
        t.status = s.status ||| dispatchFlag (msg op payload) ∧
        t.out = s.out ++ .frame (msg op payload) :: dispatchEvents (msg op payload) s.obs
      else
        t.status = s.status ||| crcErrFlag ∧ t.out = s.out ++ [.logCrcDrop (frame op payload crcl crch)] := by
  obtain ⟨v, hv, hquiet, hinv, hph, hl, hbody⟩ := receiveBytes_msg hp hlen op
  have hw : receiveByte crcl v = .next { v with crcLo := crcl, ph := .crchi } := by
    rw [receiveByte, hph]
    rfl
  have hwbody : State.body { v with crcLo := crcl, ph := .crchi } = msg op payload := hbody
  have hlast := receiveByte_crchi (s := { v with crcLo := crcl, ph := .crchi })
    ((phaseInv_crc (.inr rfl)).2 ((phaseInv_crc (.inl hph)).1 hinv)) rfl crch
  rw [hwbody] at hlast
  have hstep : receiveFrame op payload crcl crch s =
      receiveByte crch { v with crcLo := crcl, ph := .crchi } := by
    rw [receiveFrame, show frame op payload crcl crch =
      (preamble0 :: preamble1 :: msg op payload) ++ [crcl, crch] from rfl, receiveBytes_append, hv,
      andThen_next, receiveBytes, hw, andThen_next, receiveBytes_singleton]
  have hframe := receivedFrame_of_quiet hp hquiet hinv hph hl hbody crcl
  by_cases hcrc : u16le crcl crch = crc16 (msg op payload)
  · rw [if_pos hcrc.symm, accept, dispatchMsg_eq_update] at hlast
    refine ⟨_, hstep.trans hlast, hframe _ _, ?_⟩
    rw [if_pos hcrc, ← hquiet.status, ← hquiet.out, ← hquiet.obs]
    refine ⟨rfl, ?_⟩
    change v.out ++ [_] ++ _ = _
    rw [List.append_assoc]
    rfl
  · rw [if_neg (Ne.symm hcrc)] at hlast
    refine ⟨_, hstep.trans hlast, hframe _ _, ?_⟩
    rw [if_neg hcrc, ← hquiet.status, ← hquiet.out]
    exact ⟨rfl, rfl⟩

section
variable {s : State} (hp : s.ph = .hunt) {op crcl crch : Byte} {payload : List Byte}
  (hlen : payload.length ≤ 255) (hcrc : u16le crcl crch = crc16 (msg op payload))
include hp hlen hcrc

/-- R200, R225: a frame with its CRC whose message decodes is delivered to every observer, in order. -/
theorem receiveFrame_delivered {m : Message} (hm : decodeMsg Config.params (msg op payload) = .ok m) :
    ∃ t, receiveFrame op payload crcl crch s = .next t ∧ ReceivedFrame s t op payload crcl ∧
      t.status = s.status ∧
      t.out = s.out ++ .frame (msg op payload) :: s.obs.map (fun o => .deliver o m) := by
  obtain ⟨t, ht, hframe, hend⟩ := receiveFrame_of_hunt hp hlen op crcl crch
  rw [if_pos hcrc, dispatchFlag, dispatchEvents, hm] at hend
  obtain ⟨hstatus, hout⟩ := hend
  exact ⟨t, ht, hframe, hstatus.trans BitVec.or_zero, hout⟩

/-- R203, R204: a frame with its CRC whose message does not decode is dropped with the flag and the event of its
error. -/
theorem receiveFrame_refused {e : Err} (he : decodeMsg Config.params (msg op payload) = .error e) :
    ∃ t, receiveFrame op payload crcl crch s = .next t ∧ ReceivedFrame s t op payload crcl ∧
      t.status = s.status ||| e.flag ∧
      t.out = s.out ++ [.frame (msg op payload), e.event (msg op payload)] := by
  obtain ⟨t, ht, hframe, hend⟩ := receiveFrame_of_hunt hp hlen op crcl crch
  rw [if_pos hcrc, dispatchFlag, dispatchEvents, he] at hend
  exact ⟨t, ht, hframe, hend⟩

end

/-- R201: DECODE of a MSG is PARSE of its row. -/
theorem decodeMsg_msg {p : Params} {op : Byte} {e : Row} {payload : List Byte} (he : lookup p op = some e)
    (hlen : payload.length ≤ 255) : decodeMsg p (msg op payload) = parse p e op payload :=
  decodeMsg_of_lookup he (toNat_length hlen).symm

/-- Settles O17: BLOB accepts every payload. -/
theorem pingFrameIsDelivered : Obligations.PingFrameIsDelivered := by
  intro s payload crcl crch hp hlen hcrc
  exact receiveFrame_delivered hp hlen hcrc (decodeMsg_msg (e := pingReqRow) rfl hlen)

/-- Settles O18: LIST16 accepts identifiers written in pairs, and no odd number of bytes. -/
theorem deviceInitFrameIsDeliveredOrDropped : Obligations.DeviceInitFrameIsDeliveredOrDropped := by
  refine ⟨fun s ids crcl crch hp hids hcrc => ?_, fun s payload crcl crch hp hlen hodd hcrc => ?_⟩
  · have hlen : (idBytes ids).length ≤ 255 := by
      rw [idBytes_length]
      omega
    refine receiveFrame_delivered hp hlen hcrc ((decodeMsg_msg (lookup_deviceInitEvt _) hlen).trans ?_)
    exact parse_of_some (e := deviceInitEvtRow) (congrArg (Option.map Fields.list16) (parseIds_idBytes ids)) 0x03
  · refine receiveFrame_refused hp hlen hcrc (e := .lengthMismatch) ?_
    exact decodeMsg_deviceInitEvt_of_odd _ (toNat_length hlen).symm ((toNat_length hlen).symm ▸ hodd)

/-- Settles O19: ZERO accepts the empty payload alone. -/
theorem zeroArgFrameIsDeliveredOrDropped : Obligations.ZeroArgFrameIsDeliveredOrDropped := by
  intro s payload crcl crch hp hlen hcrc
  by_cases hnil : payload = []
  · subst hnil
    simp only [if_true]
    exact receiveFrame_delivered hp hlen hcrc (decodeMsg_zeroArgReq09 _)
  · have hne : BitVec.ofNat 8 payload.length ≠ 0 := fun h =>
      hnil (List.length_eq_zero_iff.1 ((toNat_length hlen).symm.trans (congrArg BitVec.toNat h)))
    simp only [if_neg hnil]
    exact receiveFrame_refused hp hlen hcrc (e := .lengthMismatch)
      (decodeMsg_zeroArgReq09_of_ne_zero _ (toNat_length hlen).symm hne)

/-- Settles O20: LOOKUP never yields GENERIC. -/
theorem genericFrameIsDropped : Obligations.GenericFrameIsDropped := by
  intro s payload crcl crch hp hlen hcrc
  exact receiveFrame_refused hp hlen hcrc (e := .opcodeMismatch)
    (decodeMsg_of_lookup_none (lookup_generic _) _ payload)

/-- Settles O21: by the table's row for the opcode, and by what its shape makes of the payload. -/
theorem unassignedAndTableRowFrames : Obligations.UnassignedAndTableRowFrames := by
  intro s op payload crcl crch hp hlen hcrc
  cases he : lookup Config.params op with
  | none =>
    obtain ⟨t, ht, hframe, hend⟩ := receiveFrame_refused hp hlen hcrc (decodeMsg_of_lookup_none he _ payload)
    exact ⟨t, ht, ht, hframe, hend⟩
  | some e =>
    have hdec := decodeMsg_msg he hlen
    cases hf : parseFields Config.params e.shape payload with
    | none =>
      obtain ⟨t, ht, hframe, hend⟩ := receiveFrame_refused hp hlen hcrc (hdec.trans (parse_of_none hf op))
      exact ⟨t, ht, ht, hframe, by simp only [hf]; exact hend⟩
    | some fields =>
      obtain ⟨t, ht, hframe, hend⟩ := receiveFrame_delivered hp hlen hcrc (hdec.trans (parse_of_some hf op))
      exact ⟨t, ht, ht, hframe, by simp only [hf]; exact hend⟩

/-- R160: a FRAME row, called as one operation, receives the bytes it is encoded as. -/
theorem exec_of_encode_frame {i : Instr} {bytes : List Byte} (h : encode i = .frame bytes) (s : State) :
    exec i s = receiveBytes bytes s := by
  cases i <;> cases h <;> rfl

/-- Settles O22: the candidate ends in the drop, whatever its opcode and payload. -/
theorem frameWithBadCrcIsDropped : Obligations.FrameWithBadCrcIsDropped := by
  intro i s op payload crcl crch henc hp hlen hcrc
  obtain ⟨t, ht, hframe, hend⟩ := receiveFrame_of_hunt hp hlen op crcl crch
  rw [if_neg hcrc] at hend
  exact ⟨t, (exec_of_encode_frame henc s).trans ht, hframe, hend⟩

/-- R96: the parts of a well-formed MSG. -/
theorem exists_of_isMsg : ∀ {pf : List Byte}, isMsg pf = true →
    ∃ l op payload, pf = l :: op :: payload ∧ payload.length = l.toNat
  | l :: op :: payload, h => ⟨l, op, payload, rfl, beq_iff_eq.1 h⟩

/-- Settles O54: WRAP's bytes are one candidate with its CRC. -/
theorem wrappedMessageIsExtracted : Obligations.WrappedMessageIsExtracted := by
  intro pf h
  obtain ⟨l, op, payload, rfl, hlength⟩ := exists_of_isMsg h
  refine ⟨?_, fun s hp => ?_⟩
  · have hone := extractFrames_candidate hlength op (lowByte (crc16 (l :: op :: payload)))
      (highByte (crc16 (l :: op :: payload))) []
    rw [u16le_lowByte_highByte, if_pos rfl] at hone
    exact hone
  · have hlen : payload.length ≤ 255 := hlength ▸ Nat.le_of_lt_succ l.isLt
    rw [← msg_of_length hlength]
    obtain ⟨t, ht, hframe, hend⟩ := receiveFrame_of_hunt hp hlen op
      (lowByte (crc16 (msg op payload))) (highByte (crc16 (msg op payload)))
    rw [if_pos (u16le_lowByte_highByte _)] at hend
    refine ⟨t, dispatchMsg (msg op payload) s, dispatchEvents (msg op payload) s.obs, ht, hframe.ph, rfl, ?_,
      hend.2, ?_⟩
    · rw [dispatchMsg_eq_update]
    · rw [hend.1, dispatchMsg_eq_update]

/-- Settles O55: DECODE of SERIALIZE is the message, and the chunk is one frame with its CRC. -/
theorem sentMessageIsDelivered : Obligations.SentMessageIsDelivered := by
  intro s op fields e pf hp hop he hsub hser
  obtain ⟨-, hdec⟩ := serializeThenDecodeGivesTheMessage Config.params op fields e pf hop he hsub hser
  obtain ⟨-, body, -, -, hlen, rfl⟩ := serializeMsg_eq_bytes hser
  obtain ⟨t, ht, -, hstatus, hout⟩ := receiveFrame_delivered (s := s.handOver (wrapMsg (msg op body))) hp hlen
    (u16le_lowByte_highByte (crc16 (msg op body))) hdec
  exact ⟨_, t, exec_send_of_bytes hser s, rfl, ht, hstatus, hout⟩

end Sys2Proof.Machine
end

section
/-! PROOFS. The rows RX_BYTE.<phase>, RX_BYTE and RX_CHUNK in every state (41_reassembler.md section 2, 20_memory.md
section 1). -/

namespace Sys2Proof.Machine

/-- R158: a row RX_BYTE.<phase> is the received byte's step in its phase, and refused in another (log 9). -/
theorem exec_phaseRow (q : Phase) (b : Byte) (s : State) :
    exec (phaseRow q b) s = if s.ph = q then receiveByte b s else .refused .phaseNotSelected := by
  by_cases hp : s.ph = q
  · rw [if_pos hp]
    subst hp
    unfold receiveByte
    cases hp : s.ph <;> exact inPhase_of_ph hp _
  · rw [if_neg hp]
    cases q <;> exact if_neg hp

/-- The row RX_BYTE is the received byte's step (R158). -/
theorem exec_rxByte (b : Byte) (s : State) : exec (.rxByte b) s = receiveByte b s := rfl

/-- Settles O13: no phase but its own selects the row. -/
theorem phaseRowsRefuseOtherPhases : Obligations.PhaseRowsRefuseOtherPhases := by
  intro s q b hne
  rw [exec_phaseRow, if_neg hne]

/-- Settles O14: the phase selects one row, and under its conditions that row has its step. -/
theorem rxByteFollowsTheTransitionTable : Obligations.RxByteFollowsTheTransitionTable := by
  refine ⟨fun s b => ?_, fun s b h => ?_⟩
  · rw [exec_phaseRow, if_pos rfl, exec_rxByte]
  · obtain ⟨t, ht, hph, -⟩ := receiveByte_of_phaseInv h.phase b
    exact ⟨t, ht, hph⟩

/-- Phase HUNT55 always has a next state: the second preamble byte, the first one again, or a byte that begins nothing
(R152). -/
theorem rxHunt55_eq (b : Byte) (s : State) :
    rxHunt55 b s = .next
      (if b = preamble1 then { s with ph := .len, crc := crcInit, fbn := 0 }
       else if b = preamble0 then
        { s with out := s.out ++ [.logSkip preamble0], status := s.status ||| skipFlag }
       else { s with
        out := s.out ++ [.logSkip preamble0, .logSkip b], status := s.status ||| skipFlag, ph := .hunt }) := by
  unfold rxHunt55
  split_ifs <;> rfl

/-- Settles O8: the row is selected, and SKIP is the value 8. -/
theorem hunt55ByteStep : Obligations.Hunt55ByteStep := by
  intro s b hp
  exact (inPhase_of_ph hp (rxHunt55 b)).trans (rxHunt55_eq b s)

/-- Settles O11: the bytes collected are there, so the trailer decides between accept and drop. -/
theorem trailerHighByteStep : Obligations.TrailerHighByteStep := by
  intro s b pf hp hn hread
  refine (inPhase_of_ph hp (rxCrchi b)).trans ?_
  rw [rxCrchi_of_collected (collected_of_readN hn hread), u16le, BitVec.or_comm]
  split_ifs <;> rfl

/-- R25: the bytes of a range can be read only if each was written. -/
theorem readN_of_read_none {m : Memory} {n a : Nat} (ha : a < n) (h : Memory.read m a = none) :
    Memory.readN m 0 n = none := by
  induction n with
  | zero => exact absurd ha (Nat.not_lt_zero a)
  | succ n ih =>
    rw [Memory.readN_succ, Nat.zero_add]
    rcases Nat.lt_succ_iff_lt_or_eq.1 ha with hlt | rfl
    · rw [ih hlt]
    · rw [h]
      cases Memory.readN m 0 a <;> rfl

/-- Settles O12: the store behind the last address, the read above it, the read of a byte never written. -/
theorem frameBufferAccessFaults : Obligations.FrameBufferAccessFaults := by
  refine ⟨fun s b hp hcnt => ?_, fun s b hp hn => ?_, fun s b hp hn ⟨a, ha, hread⟩ => ?_⟩
  · have hstore : storeFb (2 + s.cnt.toNat) b s = .fault (.fbOutOfRange 257) := by
      rw [hcnt]
      rfl
    refine (inPhase_of_ph hp (rxPay b)).trans ?_
    rw [rxPay, collect, hstore]
    rfl
  · have hcol : collected s = .error (.fbOutOfRange (s.fbn.toNat - 1)) := if_pos hn
    refine (inPhase_of_ph hp (rxCrchi b)).trans ?_
    rw [rxCrchi, hcol]
  · have hcol : collected s = .error .fbUnwritten := by
      rw [collected, if_neg (show ¬ fbSize < s.fbn.toNat from hn.not_gt), readN_of_read_none ha hread]
    refine (inPhase_of_ph hp (rxCrchi b)).trans ?_
    rw [rxCrchi, hcol]

/-- A candidate's end changes the phase, STATUS and the outputs only (R157, R183 to R185). -/
theorem candidate_end (b : Byte) (pf : List Byte) (s : State) :
    ∃ status out, resumeHunt (if s.crc = u16le s.crcLo b then accept pf s else dropCandidate pf b s) =
      { s with status := status, out := out, ph := .hunt } := by
  split_ifs
  · rw [accept, dispatchMsg_eq_update]
    exact ⟨_, _, rfl⟩
  · exact ⟨_, _, rfl⟩

/-- Settles O53, by the cases of a received byte: LEN, OPC and PAY store one byte, the other rows none. -/
theorem phaseRowsStoreAtMostOneByte : Obligations.PhaseRowsStoreAtMostOneByte := by
  intro s t q b h
  rw [exec_phaseRow] at h
  split_ifs at h with hp
  subst hp
  rcases receiveByte_cases h with ⟨hp, -, rfl⟩ | ⟨hp, -, rfl⟩ | ⟨hp, -, rfl⟩ | ⟨hp, -, rfl⟩ | ⟨hp, -, -, rfl⟩ |
    ⟨hp, rfl⟩ | ⟨hp, rfl⟩ | ⟨hp, -, rfl⟩ | ⟨hp, rfl⟩ | ⟨hp, pf, -, ht⟩
  · simp [hp]
  · simp [hp]
  · simp [hp]
  · simp [hp]
  · simp [hp]
  · simp +contextual [hp, Memory.read_write_same, Memory.read_write_other]
  · simp +contextual [hp, Memory.read_write_same, Memory.read_write_other]
  · simp +contextual [hp, Memory.read_write_same, Memory.read_write_other]
  · simp [hp]
  · obtain ⟨status, out, hend⟩ := candidate_end b pf s
    rw [hend] at ht
    subst ht
    simp [hp]

/-- What received bytes leave alone, and that outputs and flags are only added to. -/
structure Received (s t : State) : Prop where
  obs : t.obs = s.obs
  inbox : t.inbox = s.inbox
  returns : t.returns = s.returns
  tx : t.tx = s.tx
  out : ∃ evs, t.out = s.out ++ evs
  status : ∃ flags, t.status = s.status ||| flags

theorem Received.refl (s : State) : Received s s :=
  ⟨rfl, rfl, rfl, rfl, ⟨[], (List.append_nil _).symm⟩, ⟨0, BitVec.or_zero.symm⟩⟩

theorem Received.trans {s t u : State} (h : Received s t) (k : Received t u) : Received s u := by
  obtain ⟨evs, hout⟩ := h.out
  obtain ⟨evs', hout'⟩ := k.out
  obtain ⟨flags, hstatus⟩ := h.status
  obtain ⟨flags', hstatus'⟩ := k.status
  exact ⟨k.obs.trans h.obs, k.inbox.trans h.inbox, k.returns.trans h.returns, k.tx.trans h.tx,
    ⟨evs ++ evs', by rw [hout', hout, List.append_assoc]⟩,
    ⟨flags ||| flags', by rw [hstatus', hstatus, BitVec.or_assoc]⟩⟩

theorem received_dispatchMsg (pf : List Byte) (s : State) : Received s (dispatchMsg pf s) := by
  rw [dispatchMsg_eq_update]
  exact ⟨rfl, rfl, rfl, rfl, ⟨_, rfl⟩, ⟨_, rfl⟩⟩

theorem received_emit (evs : List OutEvent) (s : State) : Received s (s.emit evs) :=
  ⟨rfl, rfl, rfl, rfl, ⟨evs, rfl⟩, ⟨0, BitVec.or_zero.symm⟩⟩

theorem received_takeError (e : Err) (dropped : List Byte) (s : State) : Received s (takeError e dropped s) :=
  ⟨rfl, rfl, rfl, rfl, ⟨_, rfl⟩, ⟨_, rfl⟩⟩

theorem received_resumeHunt (s : State) : Received s (resumeHunt s) :=
  ⟨rfl, rfl, rfl, rfl, ⟨[], (List.append_nil _).symm⟩, ⟨0, BitVec.or_zero.symm⟩⟩

theorem received_skipBytes (bs : List Byte) (s : State) : Received s (skipBytes bs s) :=
  ⟨rfl, rfl, rfl, rfl, ⟨_, rfl⟩, ⟨_, rfl⟩⟩

/-- A state that differs in the receive registers and the frame buffer only. -/
theorem received_registers (s : State) (crc : Word) (ph : Phase) (len cnt : Byte) (fb : Memory) (fbn : BitVec 9)
    (crcLo : Byte) :
    Received s { s with crc := crc, ph := ph, len := len, cnt := cnt, fb := fb, fbn := fbn, crcLo := crcLo } :=
  ⟨rfl, rfl, rfl, rfl, ⟨[], (List.append_nil _).symm⟩, ⟨0, BitVec.or_zero.symm⟩⟩

theorem receiveByte_received {b : Byte} {s t : State} (h : receiveByte b s = .next t) : Received s t := by
  rcases receiveByte_cases h with ⟨-, -, rfl⟩ | ⟨-, -, rfl⟩ | ⟨-, -, rfl⟩ | ⟨-, -, rfl⟩ | ⟨-, -, -, rfl⟩ |
    ⟨-, rfl⟩ | ⟨-, rfl⟩ | ⟨-, -, rfl⟩ | ⟨-, rfl⟩ | ⟨-, pf, -, rfl⟩
  · exact received_registers s ..
  · exact received_skipBytes [b] s
  · exact received_registers s ..
  · exact received_skipBytes [preamble0] s
  · exact (received_skipBytes [preamble0, b] s).trans (received_resumeHunt _)
  · exact received_registers s ..
  · exact received_registers s ..
  · exact received_registers s ..
  · exact received_registers s ..
  · refine Received.trans ?_ (received_resumeHunt _)
    split_ifs
    · exact (received_emit [.frame pf] s).trans (received_dispatchMsg pf _)
    · exact received_takeError ..

theorem receiveBytes_received {c : List Byte} {s t : State} (h : receiveBytes c s = .next t) : Received s t :=
  receiveBytes_keeps (P := Received s) (fun _ _ _ hs hb => hs.trans (receiveByte_received hb)) (Received.refl s) h

/-- A received byte keeps the canonical form of the memory (R63, log 5). -/
theorem receiveByte_keeps_memory {b : Byte} {s t : State} (h : Memory.wf s.fb) (ht : receiveByte b s = .next t) :
    Memory.wf t.fb := by
  rcases receiveByte_cases ht with ⟨-, -, rfl⟩ | ⟨-, -, rfl⟩ | ⟨-, -, rfl⟩ | ⟨-, -, rfl⟩ | ⟨-, -, -, rfl⟩ |
    ⟨-, rfl⟩ | ⟨-, rfl⟩ | ⟨-, hlt, rfl⟩ | ⟨-, rfl⟩ | ⟨-, pf, -, rfl⟩
  · exact h
  · exact h
  · exact h
  · exact h
  · exact h
  · exact Memory.wf_write b (by decide) h
  · exact Memory.wf_write b (by decide) h
  · exact Memory.wf_write b hlt h
  · exact h
  · obtain ⟨status, out, hend⟩ := candidate_end b pf s
    rw [hend]
    exact h

/-- A received byte keeps the ranges of `cnt` and `fbn` (R20, R24): inside a candidate by R33, elsewhere they stay or
`fbn` is cleared. -/
theorem receiveByte_keeps_ranges {b : Byte} {s t : State} (hs : s.cnt.toNat ≤ s.len.toNat ∧ s.fbn.toNat ≤ 257)
    (hinv : PhaseInv t) (ht : receiveByte b s = .next t) :
    t.cnt.toNat ≤ t.len.toNat ∧ t.fbn.toNat ≤ 257 := by
  have h1 : (1 : BitVec 9).toNat ≤ 257 := by decide
  have h2 : (2 : BitVec 9).toNat ≤ 257 := by decide
  rcases receiveByte_cases ht with ⟨-, -, rfl⟩ | ⟨-, -, rfl⟩ | ⟨-, -, rfl⟩ | ⟨-, -, rfl⟩ | ⟨-, -, -, rfl⟩ |
    ⟨-, rfl⟩ | ⟨-, rfl⟩ | ⟨-, -, rfl⟩ | ⟨-, rfl⟩ | ⟨-, pf, -, rfl⟩
  · exact hs
  · exact hs
  · exact ⟨hs.1, Nat.zero_le _⟩
  · exact hs
  · exact hs
  · exact ⟨Nat.zero_le _, h1⟩
  · exact ⟨hs.1, h2⟩
  · obtain ⟨-, -, hfbn, hcnt⟩ := inside_candidate hinv (by unfold remaining; split_ifs <;> exact Nat.succ_pos _)
    have hlen := s.len.isLt
    exact ⟨hcnt, hfbn.trans (by dsimp only; omega)⟩
  · exact hs
  · obtain ⟨status, out, hend⟩ := candidate_end b pf s
    rw [hend]
    exact hs

theorem receiveByte_keeps_inv {b : Byte} {s t : State} (h : Inv s) (ht : receiveByte b s = .next t) : Inv t := by
  obtain ⟨u, hu, -, hinv⟩ := receiveByte_of_phaseInv h.phase b
  rw [hu] at ht
  cases ht
  obtain ⟨hcount, hfilled⟩ := receiveByte_keeps_ranges ⟨h.count, h.filled⟩ hinv hu
  have hobs := (receiveByte_received hu).obs
  exact ⟨receiveByte_keeps_memory h.memory hu, hcount, hfilled, hobs ▸ h.observers, hobs ▸ h.capacity, hinv⟩

/-- Under the invariant every string of bytes is received, and the invariant holds again. -/
theorem receiveBytes_of_inv {s : State} (h : Inv s) (c : List Byte) :
    ∃ t, receiveBytes c s = .next t ∧ Inv t := by
  obtain ⟨t, -, ht, -⟩ := receiveBytes_accounted h.phase c
  exact ⟨t, ht, receiveBytes_keeps (fun _ _ _ => receiveByte_keeps_inv) h ht⟩

/-- Settles O15: a chunk is received byte by byte, and a FRAME row receives its frame's bytes. -/
theorem rxChunkIsItsBytesInOrder : Obligations.RxChunkIsItsBytesInOrder := by
  refine ⟨fun s => rfl, fun s t b c h => ?_, fun s op payload crcl crch => ⟨rfl, rfl, rfl, rfl, rfl, rfl, rfl⟩,
    fun s c h => receiveBytes_of_inv h c⟩
  rw [exec_rxByte] at h
  rw [exec_rxChunk, receiveBytes, h]
  rfl

end Sys2Proof.Machine
end

section
/-! PROOFS. What an instruction can do: everything exec can answer, by kind of instruction, and the invariant of
10_state.md section 4 over every step. -/

namespace Sys2Proof.Machine

/-- What an instruction appends to the answers and to the outbound chunks is the same in every state, and all it
does. -/
def AppendsOnly (i : Instr) : Prop :=
  ∃ rs cs, ∀ s : State, exec i s = .next { s with returns := s.returns ++ rs, tx := s.tx ++ cs }

theorem appendsOnly_of_answer {i : Instr} (r : Result) (h : ∀ s, exec i s = .next (s.answer r)) :
    AppendsOnly i := by
  refine ⟨[r], [], fun s => (h s).trans ?_⟩
  rw [List.append_nil]
  rfl

theorem appendsOnly_of_handOver {i : Instr} (c : List Byte) (h : ∀ s, exec i s = .next (s.handOver c)) :
    AppendsOnly i := by
  refine ⟨[], [c], fun s => (h s).trans ?_⟩
  rw [List.append_nil]
  rfl

/-- Settles O51: what each direct call appends is fixed by its operands; SERIALIZE, WRAP and SEND by what they come
to. -/
theorem directCallsUseNoState : Obligations.DirectCallsUseNoState := by
  intro i hi
  cases i with
  | crcInit | crcByte | crc16 | extractFrames | validate | deserialize | decodeAs =>
    exact .inl (appendsOnly_of_answer _ fun s => rfl)
  | serialize op fields =>
    cases h : serializeMsg Config.params op fields with
    | bytes pf => exact .inl (appendsOnly_of_answer _ (exec_serialize_of_bytes h))
    | error e => exact .inl (appendsOnly_of_answer _ (exec_serialize_of_error h))
    | notAValue => exact .inr ⟨_, exec_serialize_of_notAValue h⟩
  | wrap pf =>
    by_cases h : isMsg pf = true
    · exact .inl (appendsOnly_of_answer _ (exec_wrap_of_isMsg h))
    · exact .inr ⟨.notAMsg, fun s => if_neg h⟩
  | send op fields =>
    cases h : serializeMsg Config.params op fields with
    | bytes pf => exact .inl (appendsOnly_of_handOver _ (exec_send_of_bytes h))
    | error e => exact .inl (appendsOnly_of_answer _ (exec_send_of_error h))
    | notAValue => exact .inr ⟨_, exec_send_of_notAValue h⟩
  | _ => cases hi

/-- R160: an instruction that receives, receives some bytes, or its phase is not selected. -/
theorem exec_of_isReceive {i : Instr} (h : isReceive i = true) (s : State) :
    (∃ c, exec i s = receiveBytes c s) ∨ exec i s = .refused .phaseNotSelected := by
  have row (q : Phase) (b : Byte) : (∃ c, exec (phaseRow q b) s = receiveBytes c s) ∨
      exec (phaseRow q b) s = .refused .phaseNotSelected := by
    rw [exec_phaseRow]
    split_ifs
    · exact .inl ⟨[b], (receiveBytes_singleton b s).symm⟩
    · exact .inr rfl
  cases i with
  | pingReq | deviceInitEvt | zeroArgReq09 | generic | unassigned | tableRow | rxChunk => exact .inl ⟨_, rfl⟩
  | rxByte b => exact .inl ⟨[b], (receiveBytes_singleton b s).symm⟩
  | rxHunt b => exact row .hunt b
  | rxHunt55 b => exact row .hunt55 b
  | rxLen b => exact row .len b
  | rxOpc b => exact row .opc b
  | rxPay b => exact row .pay b
  | rxCrclo b => exact row .crclo b
  | rxCrchi b => exact row .crchi b
  | _ => cases h

/-- The next states an instruction can have. -/
inductive Effect (i : Instr) (s : State) : State → Prop
  | received {c : List Byte} {t : State} (hi : isReceive i = true) (h : receiveBytes c s = .next t) : Effect i s t
  | reset (hi : i = .reset) : Effect i s (resetElements s)
  | answered (rs : List Result) (cs : List (List Byte)) :
      Effect i s { s with returns := s.returns ++ rs, tx := s.tx ++ cs }
  | dispatched (pf : List Byte) : Effect i s (dispatchMsg pf s)
  | registered {o : ObserverId} (hi : i = .registerObserver o) (hnew : o ∉ s.obs)
      (hroom : s.obs.length < Config.params.nObs) : Effect i s { s with obs := s.obs ++ [o] }
  | unregistered {o : ObserverId} (hi : i = .unregisterObserver o) :
      Effect i s { s with obs := s.obs.filter (· ≠ o) }

/-- An instruction that leaves the state as it is answers nothing. -/
theorem effect_self (i : Instr) (s : State) : Effect i s s := by
  simpa using Effect.answered (i := i) (s := s) [] []

theorem effect_answer (i : Instr) (s : State) (r : Result) : Effect i s (s.answer r) := by
  have heffect := Effect.answered (i := i) (s := s) [r] []
  rw [List.append_nil] at heffect
  exact heffect

/-- What receives no byte has a next state of one of the other kinds, or is refused. -/
theorem exec_of_not_isReceive {i : Instr} (h : isReceive i = false) (s : State) :
    (∃ t, exec i s = .next t ∧ Effect i s t) ∨ ∃ r, exec i s = .refused r := by
  cases hd : isDirectCall i with
  | true =>
    rcases directCallsUseNoState i hd with ⟨rs, cs, hex⟩ | ⟨r, hex⟩
    · exact .inl ⟨_, hex s, .answered rs cs⟩
    · exact .inr ⟨r, hex s⟩
  | false =>
    cases i with
    | reset => exact .inl ⟨_, rfl, .reset rfl⟩
    | dispatch pf => exact .inl ⟨_, rfl, .dispatched pf⟩
    | registerObserver o =>
      refine .inl ⟨_, (registerAndUnregister s o).1, ?_⟩
      split_ifs with hmem hroom
      · exact effect_self _ s
      · exact .registered rfl hmem hroom
      · exact effect_answer _ s .refused
    | unregisterObserver o => exact .inl ⟨_, rfl, .unregistered rfl⟩
    | crcInit | crcByte | crc16 | extractFrames | validate | deserialize | decodeAs | serialize | wrap | send =>
      cases hd
    | _ => cases h

/-- Everything an instruction can do. -/
theorem exec_effect {i : Instr} {s t : State} (h : exec i s = .next t) : Effect i s t := by
  cases hr : isReceive i with
  | true =>
    rcases exec_of_isReceive hr s with ⟨c, hc⟩ | hrefused
    · exact .received hr (hc.symm.trans h)
    · rw [hrefused] at h
      cases h
  | false =>
    rcases exec_of_not_isReceive hr s with ⟨u, hu, heffect⟩ | ⟨r, hrefused⟩
    · rw [hu] at h
      cases h
      exact heffect
    · rw [hrefused] at h
      cases h

/-- Settles O29: at reset the memory and the observers are empty, the counters 0, and phase HUNT has no condition. -/
theorem invariantHoldsAtReset : Obligations.InvariantHoldsAtReset where
  memory := Memory.wf_nil
  count := Nat.le_refl 0
  filled := Nat.zero_le _
  observers := List.nodup_nil
  capacity := Nat.zero_le _
  phase := trivial

/-- R33: every instruction keeps the invariant. -/
theorem exec_keeps_inv {i : Instr} {s t : State} (hs : Inv s) (h : exec i s = .next t) : Inv t := by
  obtain ⟨hmem, hcount, hfilled, hobs, hcap, hphase⟩ := hs
  cases exec_effect h with
  | received _ hc =>
    exact receiveBytes_keeps (fun _ _ _ => receiveByte_keeps_inv) ⟨hmem, hcount, hfilled, hobs, hcap, hphase⟩ hc
  | reset =>
    exact ⟨Memory.wf_nil, Nat.le_refl 0, Nat.zero_le _, List.nodup_nil, Nat.zero_le _, trivial⟩
  | answered => exact ⟨hmem, hcount, hfilled, hobs, hcap, hphase⟩
  | dispatched pf =>
    rw [dispatchMsg_eq_update]
    exact ⟨hmem, hcount, hfilled, hobs, hcap, hphase⟩
  | registered _ hnew hroom =>
    refine ⟨hmem, hcount, hfilled, List.concat_eq_append ▸ hobs.concat hnew, ?_, hphase⟩
    rw [List.length_append]
    exact hroom
  | unregistered =>
    exact ⟨hmem, hcount, hfilled, hobs.filter _, (List.length_filter_le _ _).trans hcap, hphase⟩

/-- The invariant does not speak of the queue. -/
theorem Inv.inbox {s : State} (h : Inv s) (q : List Input) : Inv { s with inbox := q } := by
  obtain ⟨hmem, hcount, hfilled, hobs, hcap, hphase⟩ := h
  exact ⟨hmem, hcount, hfilled, hobs, hcap, hphase⟩

/-- Settles O30: the queue's change and every instruction keep the invariant. -/
theorem stepKeepsTheInvariant : Obligations.StepKeepsTheInvariant :=
  fun _ _ => step_keeps (fun _ q h => h.inbox q) fun _ _ _ => exec_keeps_inv

/-- Under the invariant no instruction faults: received bytes have their step, the others never fault. -/
theorem exec_ne_fault {s : State} (h : Inv s) (i : Instr) (f : Fault) : exec i s ≠ .fault f := by
  intro hf
  cases hr : isReceive i with
  | true =>
    rcases exec_of_isReceive hr s with ⟨c, hc⟩ | hrefused
    · obtain ⟨t, ht, -⟩ := receiveBytes_of_inv h c
      rw [hc, ht] at hf
      cases hf
    · rw [hrefused] at hf
      cases hf
  | false =>
    rcases exec_of_not_isReceive hr s with ⟨t, ht, -⟩ | ⟨r, hrefused⟩
    · rw [ht] at hf
      cases hf
    · rw [hrefused] at hf
      cases hf

/-- What is fetched to run is run in the state with another queue. -/
theorem fetch_eq_run {s u : State} {i : Instr} (h : fetch s = .run i u) : ∃ q, u = { s with inbox := q } := by
  unfold fetch at h
  split at h
  · cases h
  · cases h
  · split at h <;> cases h
    exact ⟨_, rfl⟩

/-- A step runs what the input at the queue's head decodes to, with the bytes left over put back (R13, R18). -/
theorem step_of_decode {s : State} {inp : Input} {rest : List Input} {i : Instr} {after : List Byte}
    (hq : s.inbox = inp :: rest) (hd : decode inp = .ok (i, after)) :
    step s = exec i { s with inbox := putBack after rest } := by
  have hfetch : fetch s = .run i { s with inbox := putBack after rest } := by
    unfold fetch
    rw [hq]
    cases inp with
    | chunk bytes =>
      cases bytes with
      | nil => cases hd
      | cons b bs => simp only [hd]
    | frame | event | observer | message => simp only [hd]
  rw [step, hfetch]

/-- An input that is no instruction is refused by name (log 21). -/
theorem step_of_decode_error {s : State} {inp : Input} {rest : List Input} {e : DecodeError}
    (hq : s.inbox = inp :: rest) (hne : inp ≠ .chunk []) (hd : decode inp = .error e) :
    step s = .refused (.undecodable e) := by
  have hfetch : fetch s = .reject e := by
    unfold fetch
    rw [hq]
    cases inp with
    | chunk bytes =>
      cases bytes with
      | nil => exact absurd rfl hne
      | cons b bs => simp only [hd]
    | frame | event | observer | message => simp only [hd]
  rw [step, hfetch]

theorem putBack_eq_ite (after : List Byte) (rest : List Input) :
    putBack after rest = if after = [] then rest else .chunk after :: rest := by
  cases after <;> rfl

/-- Settles O59: by the head of the queue. -/
theorem stepRunsTheDecodedInstruction : Obligations.StepRunsTheDecodedInstruction := by
  refine ⟨fun s hq => ?_, fun s rest hq => ?_, fun s b rest hq => step_of_decode hq rfl,
    fun s b c bs rest hq => step_of_decode hq rfl, fun s inp rest i after hq hd => ?_,
    fun s inp rest e hq hne hd => step_of_decode_error hq hne hd⟩
  · rw [step, fetch, hq]
  · rw [step, fetch, hq]
  · rw [step_of_decode hq hd, putBack_eq_ite]

/-- Settles O31: what is run is run under the invariant. -/
theorem stepNeverFaultsUnderTheInvariant : Obligations.StepNeverFaultsUnderTheInvariant := by
  refine fun s h => ⟨fun f hf => ?_, fun b bs rest hq => ?_⟩
  · rw [step] at hf
    cases hfetch : fetch s with
    | run i u =>
      obtain ⟨q, rfl⟩ := fetch_eq_run hfetch
      rw [hfetch] at hf
      exact exec_ne_fault (h.inbox q) i f hf
    | idle | discard | reject =>
      rw [hfetch] at hf
      cases hf
  · obtain ⟨t, ht, -⟩ := receiveByte_of_phaseInv (h.inbox (putBack bs rest)).phase b
    exact ⟨t, (step_of_decode hq rfl).trans ht⟩

/-- Flags that were set stay set among more flags. -/
theorem and_or_self_left (x y : BitVec 4) : x &&& (x ||| y) = x := by
  ext i hi
  simp +contextual

/-- Settles O32: every effect but RESET's leaves STATUS or adds flags. -/
theorem statusFlagsAreSticky : Obligations.StatusFlagsAreSticky := by
  intro i s t hne h
  have more : (∃ flags, t.status = s.status ||| flags) → s.status &&& t.status = s.status :=
    fun ⟨flags, hstatus⟩ => hstatus ▸ and_or_self_left s.status flags
  cases exec_effect h with
  | received _ hc => exact more (receiveBytes_received hc).status
  | reset hi => exact absurd hi hne
  | dispatched pf => exact more (received_dispatchMsg pf s).status
  | answered | registered | unregistered => exact BitVec.and_self

/-- Settles O33: the observers change by their own effects and RESET's only. -/
theorem observersChangeOnlyByTheirOperations : Obligations.ObserversChangeOnlyByTheirOperations := by
  intro i s t hreset hreg hunreg h
  cases exec_effect h with
  | received _ hc => exact (receiveBytes_received hc).obs
  | reset hi => exact absurd hi hreset
  | answered => rfl
  | dispatched pf => exact (received_dispatchMsg pf s).obs
  | registered hi => exact absurd hi (hreg _)
  | unregistered hi => exact absurd hi (hunreg _)

/-- Settles O34: every effect appends to the outputs and leaves the queue. -/
theorem outputsOnlyGrow : Obligations.OutputsOnlyGrow := by
  intro i s t h
  have same {α : Type} (c : List α) : ∃ d, c = c ++ d := ⟨[], (List.append_nil c).symm⟩
  have received (k : Received s t) : (∃ evs, t.out = s.out ++ evs) ∧ (∃ rs, t.returns = s.returns ++ rs) ∧
      (∃ cs, t.tx = s.tx ++ cs) ∧ t.inbox = s.inbox :=
    ⟨k.out, k.returns ▸ same _, k.tx ▸ same _, k.inbox⟩
  cases exec_effect h with
  | received _ hc => exact received (receiveBytes_received hc)
  | dispatched pf => exact received (received_dispatchMsg pf s)
  | answered rs cs => exact ⟨same _, ⟨rs, rfl⟩, ⟨cs, rfl⟩, rfl⟩
  | reset | registered | unregistered => exact ⟨same _, same _, same _, rfl⟩

/-- Settles O52: the other effects write no receive register and no byte of the frame buffer. -/
theorem receiveStateIsTheReceiversAlone : Obligations.ReceiveStateIsTheReceiversAlone := by
  intro i s t hr hreset h
  cases exec_effect h with
  | received hi => rw [hr] at hi; cases hi
  | reset hi => exact absurd hi hreset
  | dispatched pf =>
    rw [dispatchMsg_eq_update]
    exact ⟨rfl, rfl, rfl, rfl, rfl, rfl, fun _ => rfl⟩
  | answered | registered | unregistered => exact ⟨rfl, rfl, rfl, rfl, rfl, rfl, fun _ => rfl⟩

/-- Settles O6: RESET writes the nine elements' reset values and none of the other four fields. -/
theorem resetLeavesTheResetValues : Obligations.ResetLeavesTheResetValues :=
  ⟨fun _ => rfl, rfl, rfl, rfl, rfl, rfl, rfl, rfl, rfl, rfl⟩

/-- DISPATCH does not read the queue. -/
theorem dispatchMsg_inbox (pf : List Byte) (s : State) (q : List Input) :
    dispatchMsg pf { s with inbox := q } = { dispatchMsg pf s with inbox := q } := by
  rw [dispatchMsg_eq_update, dispatchMsg_eq_update]

/-- A candidate's last byte does the same with any queue. -/
theorem rxCrchi_inbox (b : Byte) (s : State) (q : List Input) :
    rxCrchi b { s with inbox := q } = andThen (rxCrchi b s) fun t => .next { t with inbox := q } := by
  have hcol : collected { s with inbox := q } = collected s := rfl
  cases hc : collected s with
  | error f => rw [rxCrchi, rxCrchi, hcol, hc]; rfl
  | ok pf =>
    rw [rxCrchi_of_collected hc, rxCrchi_of_collected (hcol.trans hc), andThen_next]
    dsimp only
    split_ifs
    · exact congrArg (fun t => Host.Outcome.next (resumeHunt t)) (dispatchMsg_inbox pf (s.emit [.frame pf]) q)
    · rfl

/-- A received byte does the same with any queue, and leaves the queue (R76). -/
theorem receiveByte_inbox (b : Byte) (s : State) (q : List Input) :
    receiveByte b { s with inbox := q } =
      andThen (receiveByte b s) fun t => .next { t with inbox := q } := by
  obtain ⟨crc, ph, len, cnt, fb, fbn, crcLo, status, obs, inbox, out, returns, tx⟩ := s
  cases ph with
  | hunt =>
    simp only [receiveByte, rxHunt]
    split_ifs <;> rfl
  | hunt55 =>
    simp only [receiveByte, rxHunt55]
    split_ifs <;> rfl
  | len => simp only [receiveByte, rxLen_eq, andThen_next]
  | opc => simp only [receiveByte, rxOpc_eq, andThen_next]
  | pay =>
    simp only [receiveByte, rxPay, collect, storeFb]
    split_ifs <;> rfl
  | crclo => rfl
  | crchi => exact rxCrchi_inbox b _ q

/-- R13, R18: the bytes of a queued chunk, one step for each. -/
theorem run_chunk (b : Byte) (bs : List Byte) (s : State) (rest : List Input) :
    run (bs.length + 1) { s with inbox := .chunk (b :: bs) :: rest } =
      receiveBytes (b :: bs) { s with inbox := rest } := by
  induction bs generalizing b s with
  | nil => rfl
  | cons c cs ih =>
    have hstep : step { s with inbox := .chunk (b :: c :: cs) :: rest } =
        receiveByte b { s with inbox := .chunk (c :: cs) :: rest } := rfl
    rw [run, hstep, receiveBytes, receiveByte_inbox, receiveByte_inbox b s rest, andThen_assoc, andThen_assoc]
    exact congrArg (andThen (receiveByte b s)) (funext fun t => ih c t)

/-- Settles O60: by induction over the chunk's bytes. -/
theorem queuedChunkRunsToItsBytes : Obligations.QueuedChunkRunsToItsBytes := by
  intro s c rest hc
  obtain ⟨b, bs, rfl⟩ := List.exists_cons_of_ne_nil hc
  exact run_chunk b bs s rest

end Sys2Proof.Machine
end

section
/-! PROOFS. The CRC step as a linear map (40_crc.md section 3). -/

namespace Sys2Proof.Machine

theorem crcShifts_eq_iterate (n : Nat) (r : Word) : crcShifts n r = crcShift^[n] r := by
  induction n generalizing r with
  | zero => rfl
  | succ n ih => exact ih (crcShift r)

/-- Settles O2: the eight shift steps are the iterated step of R131; its corner values. -/
theorem crcInitAndCrcByteAnswer : Obligations.CrcInitAndCrcByteAnswer := by
  intro s r b
  refine ⟨rfl, ?_, by decide, by decide, by decide, by decide⟩
  change Host.Outcome.next (s.answer (.crc (crcShifts 8 (r ^^^ (b.setWidth 16 <<< 8))))) = _
  rw [crcShifts_eq_iterate]
  rfl

/-- One shift step is a shift, and the polynomial where a 1 was shifted out (R131). -/
theorem crcShift_eq (r : Word) : crcShift r = (r <<< 1) ^^^ (if r.getLsbD 15 then crcPoly else 0) := by
  unfold crcShift
  split_ifs
  · rfl
  · exact BitVec.xor_zero.symm

/-- R137 a for one shift step: the bit shifted out of a sum is the sum of the bits shifted out. -/
theorem crcShift_xor (r r' : Word) : crcShift (r ^^^ r') = crcShift r ^^^ crcShift r' := by
  have hpoly : (if (r ^^^ r').getLsbD 15 then crcPoly else (0 : Word)) =
      (if r.getLsbD 15 then crcPoly else 0) ^^^ (if r'.getLsbD 15 then crcPoly else 0) := by
    rw [BitVec.getLsbD_xor]
    cases r.getLsbD 15 <;> cases r'.getLsbD 15 <;> rfl
  rw [crcShift_eq, crcShift_eq, crcShift_eq, hpoly, BitVec.shiftLeft_xor_distrib]
  ac_rfl

theorem crcShifts_xor (n : Nat) (r r' : Word) : crcShifts n (r ^^^ r') = crcShifts n r ^^^ crcShifts n r' := by
  induction n generalizing r r' with
  | zero => rfl
  | succ n ih => rw [crcShifts, crcShift_xor, ih, crcShifts, crcShifts]

/-- R137 a: a byte's step is linear in register and byte together. -/
theorem crcByte_xor (r r' : Word) (b b' : Byte) :
    crcByte (r ^^^ r') (b ^^^ b') = crcByte r b ^^^ crcByte r' b' := by
  have hin : (r ^^^ r') ^^^ ((b ^^^ b').setWidth 16 <<< 8) =
      (r ^^^ (b.setWidth 16 <<< 8)) ^^^ (r' ^^^ (b'.setWidth 16 <<< 8)) := by
    rw [BitVec.setWidth_xor, BitVec.shiftLeft_xor_distrib]
    ac_rfl
  rw [crcByte, hin, crcShifts_xor, crcByte, crcByte]

/-- R137 a: the register's part and the byte's part. -/
theorem crcByte_split (r : Word) (b : Byte) : crcByte r b = crcByte r 0 ^^^ crcByte 0 b := by
  have h : crcByte (r ^^^ 0) (0 ^^^ b) = crcByte r 0 ^^^ crcByte 0 b := crcByte_xor r 0 0 b
  have hr : r ^^^ 0 = r := BitVec.xor_zero
  have hb : 0 ^^^ b = b := BitVec.zero_xor
  rwa [hr, hb] at h

/-- Settles O4: linearity of the step, and the loop's fold over a concatenation. -/
theorem crcIsLinearAndComposes : Obligations.CrcIsLinearAndComposes :=
  ⟨crcByte_split, crcByte_xor, crc16_append⟩

/-- Shift steps that shift out no 1 are a shift. -/
theorem crcShifts_of_clear {n : Nat} {r : Word} (hn : n ≤ 15) (h : ∀ i < n, r.getLsbD (15 - i) = false) :
    crcShifts n r = r <<< n := by
  induction n generalizing r with
  | zero => exact (BitVec.shiftLeft_zero r).symm
  | succ n ih =>
    have hshift : crcShift r = r <<< 1 := by
      rw [crcShift, if_neg]
      rw [h 0 (Nat.succ_pos n)]
      exact Bool.false_ne_true
    have hrest : ∀ i < n, (r <<< 1).getLsbD (15 - i) = false := by
      intro i hi
      rw [BitVec.getLsbD_shiftLeft, Nat.sub_sub, h (i + 1) (Nat.succ_lt_succ hi), Bool.and_false]
    rw [crcShifts, hshift, ih (by omega) hrest, ← BitVec.shiftLeft_add, Nat.add_comm]

/-- R136: the register's low byte shifts up unchanged, its high byte and the byte received enter the steps together. -/
theorem crcByte_eq_shift_xor (r : Word) (b : Byte) :
    crcByte r b = (r <<< 8) ^^^ crcByte 0 (highByte r ^^^ b) := by
  have hsplit : r ^^^ (b.setWidth 16 <<< 8) =
      (lowByte r).setWidth 16 ^^^ ((0 : Word) ^^^ ((highByte r ^^^ b).setWidth 16 <<< 8)) := by
    ext i hi
    rcases Nat.lt_or_ge i 8 with hlow | hhigh
    · simp [lowByte, hlow, BitVec.getLsbD_eq_getElem hi]
    · have hbit : i - 8 < 8 := by omega
      simp [lowByte, highByte, hhigh.not_gt, hbit, hhigh, BitVec.getLsbD_eq_getElem hi]
  have hclear : ∀ i < 8, ((lowByte r).setWidth 16).getLsbD (15 - i) = false := by
    intro i hi
    have hge : ¬ 15 - i < 8 := by omega
    simp [lowByte, hge]
  have hlow : (lowByte r).setWidth 16 <<< 8 = r <<< 8 := by
    ext i hi
    rcases Nat.lt_or_ge i 8 with hlow | hhigh
    · simp [hlow]
    · have hbit : i - 8 < 8 := by omega
      have h16 : i - 8 < 16 := by omega
      simp [lowByte, hhigh.not_gt, hbit, BitVec.getLsbD_eq_getElem h16]
  rw [crcByte, hsplit, crcShifts_xor, crcShifts_of_clear (by decide) hclear, hlow, crcByte]

/-- R136: the printed table is CRC_BYTE from 0 of each byte. -/
theorem crcTable_eq : crcTable = (List.range 256).map fun i => crcByte 0 (BitVec.ofNat 8 i) := by
  decide +kernel

theorem crcTable_getElem? (b : Byte) : crcTable[b.toNat]? = some (crcByte 0 b) := by
  rw [crcTable_eq, List.getElem?_map, List.getElem?_range b.isLt, Option.map_some, BitVec.ofNat_toNat,
    BitVec.setWidth_eq]

/-- Settles O3: the table's entries, and the split of the register. -/
theorem crcByteIsOneTableLookup : Obligations.CrcByteIsOneTableLookup :=
  ⟨by rw [crcTable_eq, List.length_map, List.length_range],
    fun r b => ⟨crcTable_getElem? b, _, crcTable_getElem? _, crcByte_eq_shift_xor r b⟩⟩

/-- R138: the register's own high byte cancels it. -/
theorem crcByte_highByte (r : Word) : crcByte r (highByte r) = r <<< 8 := by
  have hzero : crcByte 0 0 = 0 := by decide
  have hself : highByte r ^^^ highByte r = 0 := BitVec.xor_self
  rw [crcByte_eq_shift_xor, hself, hzero]
  exact BitVec.xor_zero

/-- The low byte, shifted up, is the high byte. -/
theorem highByte_shiftLeft (r : Word) : highByte (r <<< 8) = lowByte r := by
  ext i hi
  have h16 : 8 + i < 16 := by omega
  have hi16 : i < 16 := by omega
  simp [highByte, lowByte, h16, BitVec.getLsbD_eq_getElem hi16]

/-- R138: a CRC appended high byte first leaves zero. -/
theorem crc16_append_residue (bytes : List Byte) :
    crc16 (bytes ++ [highByte (crc16 bytes), lowByte (crc16 bytes)]) = 0 := by
  rw [crc16_append, List.foldl_cons, List.foldl_cons, List.foldl_nil, crcByte_highByte, ← highByte_shiftLeft,
    crcByte_highByte, ← BitVec.shiftLeft_add]
  exact BitVec.shiftLeft_eq_zero le_rfl

/-- Settles O5: the two bytes cancel the register one after the other; in wire order the empty string leaves 0 and
the example 0x6BEF. -/
theorem crcResidueIsZeroHighByteFirst : Obligations.CrcResidueIsZeroHighByteFirst :=
  ⟨crc16_append_residue, by decide +kernel, [], [0x01, 0x01, 0x22], by decide +kernel⟩

end Sys2Proof.Machine
end

section
/-! PROOFS. The encoding of instructions (30_encoding.md sections 1, 3 and 5): decode and encode are inverse. -/

namespace Sys2Proof

open Sys2Proof.Machine

/-- R93: a frame with at most 255 payload bytes is read back, and the bytes behind it are left over. -/
theorem decodeFrame_frame {payload : List Byte} (h : payload.length ≤ 255) (op crcl crch : Byte)
    (after : List Byte) :
    decodeFrame (frame op payload crcl crch ++ after) = .ok (frameRow op payload crcl crch, after) := by
  have hlen := (toNat_length h).symm
  have hrest : payload ++ [crcl, crch] ++ after = payload ++ crcl :: crch :: after := by simp
  simp only [frame, msg, List.cons_append, hrest, decodeFrame, and_self, if_true, List.drop_left' hlen,
    List.take_left' hlen]

/-- R91, R93: what is read as a frame is one, with LENGTH payload bytes and the bytes left over behind it. -/
theorem decodeFrame_eq_ok {bytes after : List Byte} {i : Instr} (h : decodeFrame bytes = .ok (i, after)) :
    ∃ op payload crcl crch, payload.length ≤ 255 ∧ i = frameRow op payload crcl crch ∧
      bytes = frame op payload crcl crch ++ after := by
  match bytes, h with
  | [], h | [_], h => cases h
  | [p0, p1], h | [p0, p1, _], h =>
    simp only [decodeFrame] at h
    split_ifs at h
  | p0 :: p1 :: l :: op :: rest, h =>
    simp only [decodeFrame] at h
    split_ifs at h with hp
    obtain ⟨rfl, rfl⟩ := hp
    split at h <;> cases h
    rename_i crcl crch hdrop
    have hlt := congrArg List.length hdrop
    rw [List.length_drop, List.length_cons] at hlt
    have hlen : (rest.take l.toNat).length = l.toNat := by
      rw [List.length_take]
      omega
    have hsplit : rest = rest.take l.toNat ++ crcl :: crch :: after := by rw [← hdrop, List.take_append_drop]
    refine ⟨op, rest.take l.toNat, crcl, crch, hlen.trans_le (Nat.le_of_lt_succ l.isLt), rfl, ?_⟩
    rw [frame, msg_of_length hlen]
    simpa using hsplit

/-- The FRAME row an opcode selects has that opcode's frame as its encoding (R91, R107). -/
theorem encode_frameRow (op : Byte) (payload : List Byte) (crcl crch : Byte) :
    encode (frameRow op payload crcl crch) = .frame (frame op payload crcl crch) := by
  unfold frameRow
  split_ifs with h1 h3 h9 hg
  · rw [h1]; rfl
  · rw [h3]; rfl
  · rw [h9]; rfl
  · rw [hg]; rfl
  · split <;> rfl

/-- The FRAME row an opcode selects is well-formed: the opcode is in the row's class (R107). -/
theorem wellFormed_frameRow {payload : List Byte} (h : payload.length ≤ 255) (op crcl crch : Byte) :
    (frameRow op payload crcl crch).WellFormed := by
  have hmax : decide (payload.length ≤ maxLength) = true := decide_eq_true h
  unfold frameRow
  split_ifs with h1 h3 h9 hg
  · exact hmax
  · exact hmax
  · exact hmax
  · exact hmax
  · split
    · rename_i hrow
      simp only [Instr.WellFormed, Instr.wf, hmax, hrow, Bool.true_and, Bool.and_eq_true, bne_iff_ne,
        Option.isSome_some, and_true]
      exact ⟨⟨h1, h3⟩, h9⟩
    · rename_i hrow
      simp only [Instr.WellFormed, Instr.wf, hmax, hrow, Bool.true_and, Bool.and_eq_true, bne_iff_ne,
        Option.isNone_none, and_true]
      exact hg

/-- The classes of UNASSIGNED and TABLE_ROW are those the decoder selects them for (R107). -/
theorem frameRow_of_unassigned {op : Byte} (hg : op ≠ opcodeGeneric) (hrow : lookup Config.params op = none)
    (payload : List Byte) (crcl crch : Byte) :
    frameRow op payload crcl crch = .unassigned op payload crcl crch := by
  have hfixed (v : Byte) (hv : (lookup Config.params v).isSome = true) : op ≠ v := by
    rintro rfl
    rw [hrow] at hv
    cases hv
  rw [frameRow, if_neg (hfixed 0x01 rfl), if_neg (hfixed 0x03 rfl), if_neg (hfixed 0x09 rfl), if_neg hg, hrow]

theorem frameRow_of_tableRow {op : Byte} (h1 : op ≠ 0x01) (h3 : op ≠ 0x03) (h9 : op ≠ 0x09) {e : Row}
    (hrow : lookup Config.params op = some e) (payload : List Byte) (crcl crch : Byte) :
    frameRow op payload crcl crch = .tableRow op payload crcl crch := by
  have hg : op ≠ opcodeGeneric := by
    rintro rfl
    rw [lookup_generic] at hrow
    cases hrow
  rw [frameRow, if_neg h1, if_neg h3, if_neg h9, if_neg hg, hrow]

/-- A FRAME input that is one frame decodes to the row its opcode selects, with nothing left over. -/
theorem decode_frame {payload : List Byte} (h : payload.length ≤ 255) (op crcl crch : Byte) :
    decode (.frame (frame op payload crcl crch)) = .ok (frameRow op payload crcl crch, []) := by
  have hframe := decodeFrame_frame h op crcl crch []
  rw [List.append_nil] at hframe
  exact hframe

/-- Settles O56: the FRAME rows by the frame's layout and the class of the opcode, CRC_BYTE by its register's two
bytes, WRAP by its MSG; the other rows are written as their operands. -/
theorem decodeInvertsEncode : Obligations.DecodeInvertsEncode := by
  intro i hwf
  cases i with
  | pingReq payload crcl crch | deviceInitEvt payload crcl crch | zeroArgReq09 payload crcl crch
  | generic payload crcl crch => exact decode_frame (of_decide_eq_true hwf) _ crcl crch
  | unassigned op payload crcl crch =>
    simp only [Instr.WellFormed, Instr.wf, Bool.and_eq_true, decide_eq_true_eq, bne_iff_ne, ne_eq,
      Option.isNone_iff_eq_none] at hwf
    obtain ⟨⟨hlen, hg⟩, hrow⟩ := hwf
    rw [← frameRow_of_unassigned hg hrow payload crcl crch, encode_frameRow]
    exact decode_frame hlen op crcl crch
  | tableRow op payload crcl crch =>
    simp only [Instr.WellFormed, Instr.wf, Bool.and_eq_true, decide_eq_true_eq, bne_iff_ne, ne_eq,
      Option.isSome_iff_exists] at hwf
    obtain ⟨⟨⟨⟨hlen, h1⟩, h3⟩, h9⟩, e, hrow⟩ := hwf
    rw [← frameRow_of_tableRow h1 h3 h9 hrow payload crcl crch, encode_frameRow]
    exact decode_frame hlen op crcl crch
  | crcByte r b =>
    change Except.ok (Instr.crcByte (u16le (lowByte r) (highByte r)) b, []) = _
    rw [u16le_lowByte_highByte]
  | wrap pf =>
    have hwrap : decodeEvent .wrap pf = .ok (.wrap pf) := if_pos hwf
    rw [encode, decode, hwrap]
  | _ => rfl

/-- What an event's name and operand give is well-formed and is written as them: CRC_BYTE with the register's
two bytes, WRAP with a MSG, and no operation on an operand of another form. -/
theorem decodeEvent_eq_ok {op : EventOp} {operand : List Byte} {i : Instr}
    (h : decodeEvent op operand = .ok i) : i.WellFormed ∧ encode i = .event op operand := by
  unfold decodeEvent at h
  split at h
  case h_3 =>
    cases h
    rw [encode, lowByte_u16le, highByte_u16le]
    exact ⟨rfl, rfl⟩
  case h_18 =>
    split_ifs at h with hmsg
    cases h
    exact ⟨hmsg, rfl⟩
  case h_19 => cases h
  all_goals
    cases h
    exact ⟨rfl, rfl⟩

/-- Settles O57: a chunk gives its first byte, a frame its row, an event its operation. -/
theorem decodedInputIsItsEncoding : Obligations.DecodedInputIsItsEncoding := by
  intro inp i after h
  cases inp with
  | chunk bytes =>
    cases bytes <;> cases h
    exact ⟨rfl, rfl⟩
  | frame bytes =>
    obtain ⟨op, payload, crcl, crch, hlen, rfl, rfl⟩ := decodeFrame_eq_ok h
    exact ⟨wellFormed_frameRow hlen op crcl crch, by rw [encode_frameRow]; rfl⟩
  | event op operand =>
    simp only [decode] at h
    cases hi : decodeEvent op operand with
    | error e => rw [hi] at h; cases h
    | ok j =>
      rw [hi] at h
      cases h
      obtain ⟨hwf, henc⟩ := decodeEvent_eq_ok hi
      exact ⟨hwf, by rw [henc]; rfl⟩
  | observer op o => cases op <;> cases h <;> exact ⟨rfl, rfl⟩
  | message op code fields => cases op <;> cases h <;> exact ⟨rfl, rfl⟩

/-- Settles O58: closed instances of the decoder. -/
theorem headerWordsDecodeToTheirRows : Obligations.HeaderWordsDecodeToTheirRows := by
  unfold Obligations.HeaderWordsDecodeToTheirRows
  decide +kernel

end Sys2Proof
end
